-- ==== Sys2Proof/Word.lean ====
section
/-! DEFINITION. The widths of spec/00_scope.md R4, as types. -/

namespace Sys2Proof

/-- An exchanged byte (R4). -/
abbrev Byte := BitVec 8

/-- A channel number as `req_ch` carries it, 0 to 7 (R4). -/
abbrev Channel := BitVec 3

/-- A command word (R4). -/
abbrev CommandWord := BitVec 16

/-- The nibble captured in exchange 2 (10_state R23). -/
abbrev Nibble := BitVec 4

/-- A 12-bit conversion result (R4). -/
abbrev Sample := BitVec 12

end Sys2Proof
end

