-- ==== Sys2Proof/Config.lean ====
section
/-! DEFINITION. What an implementation of the block fixes (spec/00_scope.md R5, R6), and the free values of the spec. -/

namespace Sys2Proof

/-- The parameters of one built block. The legal values of `CMD_PREFIX` are those with `CMD_PREFIX[8:0] = 0`
(R5, 30_encoding R71 item 3), so the field holds `CMD_PREFIX[15:9]` alone and an illegal configuration cannot be
written. DESIGN CHOICE, log 4. -/
structure Config where
  /-- `CMD_PREFIX[15:9]` (R5). -/
  prefixTop : BitVec 7
  /-- `TRANSPORT_CAN_FAIL` (R6). -/
  transportCanFail : Bool
  deriving DecidableEq, Repr

/-- `CMD_PREFIX` (R5). -/
def Config.cmdPrefix (c : Config) : CommandWord := c.prefixTop.setWidth 16 <<< 9

/-- Is a 16-bit value a legal `CMD_PREFIX` (R5)? -/
def Config.legalPrefix (p : CommandWord) : Bool := p &&& 0x01FF#16 == 0#16

/-- `CMD_PREFIX[15:9]` of the value this spec takes, `0x0400` (R5). -/
def Config.standardTop : BitVec 7 := 0b0000010#7

/-- A block with the spec's prefix; whether its transport can fail is left to the caller (R6). -/
def Config.standard (canFail : Bool) : Config := { prefixTop := Config.standardTop, transportCanFail := canFail }

/-- FREE VALUE: `TRANSPORT_CAN_FAIL` of the machine right after reset. The spec leaves it OPEN (R6), so nothing
constrains it. Log 2. -/
opaque Config.openTransportCanFail : Bool

/-- FREE VALUE: `x_in` of the n-th answer of the transport past the end of the listed answers: "a draw: the source
gives no law for what the ADC returns" (R10). Log 1. -/
opaque Config.freeReply : Nat → Byte

/-- FREE VALUE: `x_fault` of that same answer (R10). Log 1. -/
opaque Config.freeFault : Nat → Bool

end Sys2Proof
end

