-- ==== Sys2Proof/Syntax.lean ====
section
/-! DEFINITION. The operations of spec/opcode_table.json, one constructor a row, and the formats their words stand in. -/

namespace Sys2Proof

/-- The operations of the opcode table. A channel is a natural number, the wider host interface of 60_exceptions R124
(DESIGN CHOICE, log 8). The free bits of a sent byte are operands of its exchange (DESIGN CHOICE, log 9). -/
inductive Instr where
  /-- TRANSACT (41_transaction R90), `ccc`. -/
  | transact (ch : Nat)
  /-- ACCEPT (R91), `ccc`. -/
  | accept (ch : Nat)
  /-- XCHG1 (R92), `0000010c`; `c` is `CMD[8]`. -/
  | xchg1 (c : BitVec 1)
  /-- XCHG2 (R93), `cc000000`; `cc` is `CMD[7:6]`. -/
  | xchg2 (cc : BitVec 2)
  /-- XCHG3 (R94), `00000000`. -/
  | xchg3
  /-- ACK (R96), `1`. -/
  | ack
  /-- FAULT_ENTRY (60_exceptions R121), the fault answer of the transport. -/
  | faultEntry
  /-- RESET (70_reset_and_hazards R140), `1`. -/
  | reset
  /-- ENCODE (40_codec R80), `0000010ccc000000`. -/
  | encode (ch : Nat)
  /-- DECODE (40_codec R83), the reply frame `r1`, `r2`, `r3`. -/
  | decode (r1 r2 r3 : Byte)
  deriving DecidableEq, Repr

/-- Where a word of the table stands: its format (30_encoding R60), and for the two formats that carry two rows each,
which of the two. A word's value alone does not say it: "A sent byte is identified by its position in the frame ...
not by its value" (R66). -/
inductive Format where
  /-- F-HREQ as the host's one operation TRANSACT (R69). -/
  | hreqTransact
  /-- F-HREQ as the port `req_ch` that ACCEPT reads (R69, R91). -/
  | hreqAccept
  /-- F-TX1 (R63). -/
  | tx1
  /-- F-TX2 (R64). -/
  | tx2
  /-- F-TX3 (R65). -/
  | tx3
  /-- F-HACK (R70). -/
  | hack
  /-- The fault answer: `x_fault = 1` (10_state R29, R121). -/
  | rspFault
  /-- F-RST (R60). -/
  | rst
  /-- F-CMD (R61). -/
  | cmd
  /-- F-RSP, the reply frame (R67). -/
  | rspFrame
  deriving DecidableEq, Repr

/-- The width of a format in bits (R60). -/
def Format.width : Format → Nat
  | .hreqTransact => 3
  | .hreqAccept => 3
  | .tx1 => 8
  | .tx2 => 8
  | .tx3 => 8
  | .hack => 1
  | .rspFault => 1
  | .rst => 1
  | .cmd => 16
  | .rspFrame => 24

/-- A word of the table: its bits as a number, bit 0 least significant (00_scope R9), and where they stand. -/
structure TableWord where
  format : Format
  bits : Nat
  deriving DecidableEq, Repr

end Sys2Proof
end

