-- ==== Sys2Proof/Machine/State.lean ====
section
/-! DEFINITION. The state of the block (spec/10_state.md R20 to R28), what its two neighbours will drive, and the reset state. -/

namespace Sys2Proof.Machine

/-- `ST`, the frame position (R21). -/
inductive FrameState where
  | idle
  | x1
  | x2
  | x3
  | done
  deriving DecidableEq, Repr

/-- `STATUS` (R26). -/
inductive Status where
  | ok
  | transportFault
  deriving DecidableEq, Repr

/-- The registers that may hold no value (R33). -/
inductive Reg where
  | cmd
  | hi
  | lo
  | sample
  | status
  deriving DecidableEq, Repr

/-- The transport's ports of one exchange: `x_in` and `x_fault` (R29). -/
structure Reply where
  xIn : Byte
  xFault : Bool
  deriving DecidableEq, Repr

/-- `In`, the answer of an exchange (00_scope R10). -/
inductive Answer where
  | byte (b : Byte)
  | fault
  deriving DecidableEq, Repr

/-- The host's input lines at one step (R29). `req_ch` is a number, the wider interface of 60_exceptions R124
(DESIGN CHOICE, log 8). -/
structure HostLines where
  rst : Bool
  reqValid : Bool
  reqCh : Nat
  rspReady : Bool
  deriving DecidableEq, Repr

/-- What is driven at the block (DESIGN CHOICE, log 5, log 6): the host's lines of one step (41_transaction R102); one
word of the opcode table; or the host waiting in a TRANSACT it has begun. -/
inductive HostRow where
  | lines (l : HostLines)
  | word (w : TableWord)
  /-- A TRANSACT word whose request has been accepted: nothing is driven while its frame is open, and `rsp_ready` in DONE
  (41_transaction R90). -/
  | awaiting
  deriving DecidableEq, Repr

/-- What the block has done on the serial side (R99): driven `cs_n` to a level, or exchanged a byte. -/
inductive WireEvent where
  | cs (level : BitVec 1)
  | xchg (out : Byte) (ans : Answer)
  deriving DecidableEq, Repr

/-- A response (30_encoding R70): `rsp_status`, and `rsp_sample` or no value. -/
structure Response where
  status : Status
  sample : Option Sample
  deriving DecidableEq, Repr

/-- The result of a codec operation run on its own: F-CMD (40_codec R80) or a sample (R83). -/
inductive CodecResult where
  | command (w : CommandWord)
  | sample (v : Sample)
  deriving DecidableEq, Repr

/-- The machine's state. The first eight fields are the block's registers; `none` is the spec's own value of a
register that holds nothing (R33). `cfg` is the parameter of the step relation, which no step writes (R20; log 2, log 4).
`host`, `replies` and `draws` are the inputs to come (log 1, log 5). `wire`, `received` and `codecOut` record what the
neighbours have seen; no rule reads them (log 10). -/
@[ext]
structure State where
  /-- `ST` (R21). -/
  st : FrameState
  /-- `CMD` (R22). -/
  cmd : Option CommandWord
  /-- `HI` (R23). -/
  hi : Option Nibble
  /-- `LO` (R24). -/
  lo : Option Byte
  /-- `SAMPLE` (R25). -/
  sample : Option Sample
  /-- `STATUS` (R26). -/
  status : Option Status
  /-- `CS_N`, active low (R27). -/
  csN : BitVec 1
  /-- `FAULT_SEEN`, sticky (R28). -/
  faultSeen : Bool
  /-- The parameters of this block (00_scope R5, R6). -/
  cfg : Config
  /-- What the host drives at the coming steps. -/
  host : List HostRow
  /-- The transport's coming answers, one an exchange. -/
  replies : List Reply
  /-- The number of the next free draw. -/
  draws : Nat
  /-- What the block has driven on the serial side, oldest first. -/
  wire : List WireEvent
  /-- The responses the host has taken, oldest first. -/
  received : List Response
  /-- The last result of ENCODE or DECODE run on its own. -/
  codecOut : Option CodecResult
  deriving DecidableEq, Repr

/-- Why the machine stops. Every one of these is safe: it removes runs and adds none. -/
inductive Fault where
  /-- Raised by step in IDLE when no request is present: the block is quiescent, "no step" (41_transaction R102,
  R103). Safe; log 7. -/
  | quiescentIdle
  /-- Raised by step in DONE when `rsp_ready = 0`: the block is quiescent, "no step" (R97, R103). Safe; log 7. -/
  | quiescentDone
  /-- Raised by an operation driven in a frame position its guard does not name: there is no such transition
  (R91 to R96, R121, R102). Safe; log 7. -/
  | notEnabled (at_ : FrameState)
  /-- Raised by FAULT_ENTRY when the transport answers with a byte (R121). Safe; log 7. -/
  | noFaultAnswer
  /-- Raised by XCHG1 or XCHG2 driven as a word whose free bits are not those of `CMD`: the block sends no such byte
  (R92, R93). Safe; log 9. -/
  | sentBitsDiffer
  /-- Raised by any operation that reads a register holding no value (10_state R33). Safe; reached in no run from
  reset (R34); log 13. -/
  | noneRead (r : Reg)
  deriving DecidableEq, Repr

/-- Why there is no meaning. Every one of these is safe: nothing changes. -/
inductive Refusal where
  /-- Raised by exec for an instruction not modelled yet. Safe. No arm raises it. -/
  | notModelled (mnemonic : String)
  /-- Raised by ACCEPT, TRANSACT, ENCODE and by a request whose channel is 8 or more: "fail fast ... rather than
  silently masking bits" (60_exceptions R124). Safe; log 8. -/
  | invalidChannel (ch : Nat)
  /-- Raised by step when a driven word is none of the table's (30_encoding R71). Safe. -/
  | undecodable (w : TableWord)
  /-- Raised by instantiate for `CMD_PREFIX[8:0] != 0` (00_scope R5, 30_encoding R71 item 3). Safe; log 4. -/
  | illegalPrefix (p : CommandWord)
  deriving DecidableEq, Repr

/-- `ResetState` of a block built with `c` (70_reset_and_hazards R140), with nothing driven yet. -/
def State.resetWith (c : Config) : State where
  st := .idle
  cmd := none
  hi := none
  lo := none
  sample := none
  status := none
  csN := 1#1
  faultSeen := false
  cfg := c
  host := []
  replies := []
  draws := 0
  wire := []
  received := []
  codecOut := none

/-- The machine right after reset (R140): the spec's prefix `0x0400`, and `TRANSPORT_CAN_FAIL` free (log 2). -/
def State.reset : State := State.resetWith (Config.standard Config.openTransportCanFail)

end Sys2Proof.Machine
end

