-- ==== Sys2Proof/Machine/Flags.lean ====
section
/-! DEFINITION. The block's two flags, `STATUS` (spec/10_state.md R26) and the sticky `FAULT_SEEN` (R28): "No step
writes a flag as a side effect other than as those rules state" (R36). -/

namespace Sys2Proof.Machine

/-- Acceptance sets `STATUS` to none (R26). -/
def State.clearStatus (s : State) : State := { s with status := none }

/-- Exchange 3 writes OK (R26). -/
def State.statusOk (s : State) : State := { s with status := some .ok }

/-- The fault entry writes TRANSPORT_FAULT and sets the sticky bit (R26, R28). -/
def State.statusFault (s : State) : State := { s with status := some .transportFault, faultSeen := true }

/-- Reset clears both: `STATUS` none, `FAULT_SEEN` 0 (R26, R28). -/
def State.clearFlags (s : State) : State := { s with status := none, faultSeen := false }

end Sys2Proof.Machine
end

