-- ==== Sys2Proof/Machine/Operands.lean ====
section
/-! DEFINITION. The operand forms: channel admission, the Command Codec (spec/40_codec.md), the sent bytes, the numeric
codes of ST and STATUS, and the block's output functions (spec/10_state.md R30). -/

namespace Sys2Proof.Machine

/-- Admission of a channel (60_exceptions R124): the number is a channel, or there is none. -/
def channelOf (ch : Nat) : Option Channel :=
  if ch < 8 then some (BitVec.ofNat 3 ch) else none

/-- `Encode` (40_codec R80): `CMD_PREFIX | (zext_16(ch) << 6)`. -/
def commandWord (c : Config) (ch : Channel) : CommandWord :=
  c.cmdPrefix ||| (ch.setWidth 16 <<< 6)

/-- `Decode` (40_codec R83): `(zext_12(n) << 8) | zext_12(lo)`. -/
def sampleOf (n : Nibble) (lo : Byte) : Sample :=
  (n.setWidth 12 <<< 8) ||| lo.setWidth 12

/-- `r2[3:0]`: "capture the reply and mask to its low 4 bits" (R84). -/
def lowNibble (r2 : Byte) : Nibble := r2.extractLsb' 0 4

/-- F-TX1, `CMD[15:8]` (30_encoding R63). -/
def cmdHigh (w : CommandWord) : Byte := w.extractLsb' 8 8

/-- F-TX2, `CMD[7:0]` (R64). -/
def cmdLow (w : CommandWord) : Byte := w.extractLsb' 0 8

/-- F-TX3, the filler (R65). -/
def filler : Byte := 0x00#8

/-- The free bit of F-TX1, `CMD[8]` (opcode_table.json row XCHG1). -/
def tx1Free (w : CommandWord) : BitVec 1 := w.extractLsb' 8 1

/-- The free bits of F-TX2, `CMD[7:6]` (row XCHG2). -/
def tx2Free (w : CommandWord) : BitVec 2 := w.extractLsb' 6 2

/-- The code of a frame position in the 3-bit `ST` (10_state R21). -/
def stCode : FrameState → BitVec 3
  | .idle => 0
  | .x1 => 1
  | .x2 => 2
  | .x3 => 3
  | .done => 4

/-- The frame position of a 3-bit `ST`; 5, 6 and 7 are none (R21). -/
def stOfCode (b : BitVec 3) : Option FrameState :=
  if b = 0 then some .idle
  else if b = 1 then some .x1
  else if b = 2 then some .x2
  else if b = 3 then some .x3
  else if b = 4 then some .done
  else none

/-- The code of a status on `rsp_status` (R26). -/
def statusCode : Status → BitVec 1
  | .ok => 0
  | .transportFault => 1

/-- `req_ready` (R30). -/
def reqReady (s : State) : Bool := s.st == .idle

/-- `rsp_valid` (R30). -/
def rspValid (s : State) : Bool := s.st == .done

/-- `rsp_status` (R30). -/
def rspStatus (s : State) : Option Status :=
  if s.st = .done then s.status else none

/-- The bit that `rsp_status` carries (R26, R29; 30_encoding R70), or no value. -/
def rspStatusPort (s : State) : Option (BitVec 1) := (rspStatus s).map statusCode

/-- `rsp_sample` (R30). -/
def rspSample (s : State) : Option Sample :=
  if s.st = .done ∧ s.status = some .ok then s.sample else none

/-- `cs_n` (R30). -/
def csPort (s : State) : BitVec 1 := s.csN

/-- `x_out` (R30): the byte offered to the transport. -/
def xOut (s : State) : Option Byte :=
  match s.st with
  | .x1 => s.cmd.map cmdHigh
  | .x2 => s.cmd.map cmdLow
  | .x3 => some filler
  | .idle => none
  | .done => none

end Sys2Proof.Machine
end

