-- ==== Sys2Proof/Machine/Ops.lean ====
section
/-! DEFINITION. The named operations over the block's registers: chip-select, the exchange with the transport, opening
and closing a frame, taking a Transport-Fault (the block's one exception), returning from it, and reset. -/

namespace Sys2Proof.Machine

/-- The result of an operation. -/
abbrev Result := Host.Outcome State Fault Refusal

/-- Go on from a next state; a stop stays. -/
def andThen (o : Result) (f : State → Result) : Result :=
  match o with
  | .next s => f s
  | .fault r => .fault r
  | .refused r => .refused r

/-- The next state of a result, if it has one. -/
def nextOf : Result → Option State
  | .next s => some s
  | .fault _ => none
  | .refused _ => none

/-- The fault of a result, if it is one. -/
def faultOf : Result → Option Fault
  | .next _ => none
  | .fault r => some r
  | .refused _ => none

/-- The refusal of a result, if it is one. -/
def refusalOf : Result → Option Refusal
  | .next _ => none
  | .fault _ => none
  | .refused r => some r

/-- `CS_N <- v` (00_scope R10), seen on the wire. -/
def State.driveCs (v : BitVec 1) (s : State) : State :=
  { s with csN := v, wire := s.wire ++ [.cs v] }

/-- The ports as an answer (10_state R29): `fault` when `x_fault = 1`, otherwise `byte(x_in)`. A block whose transport
cannot fail has no fault answer (00_scope R6; log 3). -/
def Reply.answer (c : Config) (r : Reply) : Answer :=
  if r.xFault && c.transportCanFail then .fault else .byte r.xIn

/-- The ports of the next exchange: the first listed answer, or past the end of the list a free draw (R10; log 1). -/
def State.nextReply (s : State) : Reply :=
  match s.replies with
  | r :: _ => r
  | [] => { xIn := Config.freeReply s.draws, xFault := Config.freeFault s.draws }

/-- The transport's answer to the next exchange. -/
def State.answer (s : State) : Answer := s.nextReply.answer s.cfg

/-- The exchange has used its answer: "The reply bytes of each frame are new draws" (20_memory R47). -/
def State.takeReply (s : State) : State :=
  match s.replies with
  | _ :: rest => { s with replies := rest }
  | [] => { s with draws := s.draws + 1 }

/-- `Exchange(out)` as the wire sees it (R10): one byte out, one answer in, one atomic step (20_memory R45). -/
def State.exchange (out : Byte) (s : State) : State :=
  { s.takeReply with wire := s.wire ++ [.xchg out s.answer] }

/-- TAKING THE EXCEPTION, `FaultEntry(s)` (60_exceptions R121). -/
def State.raiseTransportFault (s : State) : State :=
  { ((s.driveCs 1#1).statusFault) with sample := none, st := .done }

/-- Opening a frame (41_transaction R91). -/
def State.openFrame (ch : Channel) (s : State) : State :=
  { ((s.driveCs 0#1).clearStatus) with
    cmd := some (commandWord s.cfg ch), hi := none, lo := none, sample := none, st := .x1 }

/-- The byte path of exchange 3 after the exchange: decode, and close the frame (R94). -/
def State.closeFrame (n : Nibble) (r3 : Byte) (s : State) : State :=
  { ((s.driveCs 1#1).statusOk) with lo := some r3, sample := some (sampleOf n r3), st := .done }

/-- `ResetState` (70_reset_and_hazards R140). The parameters, the inputs to come and what has been observed are not
the block's and stay. -/
def State.resetBlock (s : State) : State :=
  { ((s.driveCs 1#1).clearFlags) with st := .idle, cmd := none, hi := none, lo := none, sample := none }

/-- Exchange 1 of an open frame (R92). -/
def exchange1 (s : State) : Result :=
  match s.cmd with
  | none => .fault (.noneRead .cmd)
  | some w =>
    match s.answer with
    | .fault => .next (s.exchange (cmdHigh w)).raiseTransportFault
    | .byte _ => .next { s.exchange (cmdHigh w) with st := .x2 }

/-- Exchange 2 of an open frame (R93). -/
def exchange2 (s : State) : Result :=
  match s.cmd with
  | none => .fault (.noneRead .cmd)
  | some w =>
    match s.answer with
    | .fault => .next (s.exchange (cmdLow w)).raiseTransportFault
    | .byte r2 => .next { s.exchange (cmdLow w) with hi := some (lowNibble r2), st := .x3 }

/-- Exchange 3 of an open frame (R94). -/
def exchange3 (s : State) : Result :=
  match s.answer with
  | .fault => .next (s.exchange filler).raiseTransportFault
  | .byte r3 =>
    match s.hi with
    | none => .fault (.noneRead .hi)
    | some n => .next ((s.exchange filler).closeFrame n r3)

/-- What the host receives at ACK (R96): `(STATUS, if STATUS == OK then SAMPLE else none)`. -/
def responseOf (s : State) : Except Reg Response :=
  match s.status with
  | none => .error .status
  | some .transportFault => .ok { status := .transportFault, sample := none }
  | some .ok =>
    match s.sample with
    | none => .error .sample
    | some v => .ok { status := .ok, sample := some v }

/-- THE RETURN (60_exceptions R127): ACK (41_transaction R96), the same after a fault and after a good frame. -/
def acknowledge (s : State) : Result :=
  match responseOf s with
  | .error r => .fault (.noneRead r)
  | .ok r => .next { s with st := .idle, received := s.received ++ [r] }

/-- Go on in the frame while the block stands at `p`; a frame that has left `p` is left as it is. -/
def whileAt (p : FrameState) (f : State → Result) (s : State) : Result :=
  if s.st = p then f s else .next s

end Sys2Proof.Machine
end

