-- ==== Sys2Proof/Machine/Codec.lean ====
section
/-! DEFINITION. The Command Codec family run as operations of their own (spec/40_codec.md): pure functions that write
no register; their result is recorded in `codecOut` (log 10). -/

namespace Sys2Proof.Machine

/-- ENCODE (R80). A channel outside 0..7 "never reaches ENCODE; it is refused before it". -/
def execEncode (ch : Nat) (s : State) : Result :=
  match channelOf ch with
  | none => .refused (.invalidChannel ch)
  | some c => .next { s with codecOut := some (.command (commandWord s.cfg c)) }

/-- DECODE (R83) of a reply frame (30_encoding R67): `r1` and `r2[7:4]` are ignored (R84). -/
def execDecode (_r1 r2 r3 : Byte) (s : State) : Result :=
  .next { s with codecOut := some (.sample (sampleOf (lowNibble r2) r3)) }

end Sys2Proof.Machine
end

