-- ==== Sys2Proof/Machine/Exceptions.lean ====
section
/-! DEFINITION. FAULT_ENTRY (spec/60_exceptions.md R121) and RESET (spec/70_reset_and_hazards.md R140). -/

namespace Sys2Proof.Machine

/-- FAULT_ENTRY (R121), with the guard of opcode_table.json: an exchange is pending and the transport answers `fault`.
The exchange that fails is on the wire (20_memory R44; log 17). -/
def execFaultEntry (s : State) : Result :=
  match s.st with
  | .idle => .fault (.notEnabled .idle)
  | .done => .fault (.notEnabled .done)
  | .x1 | .x2 | .x3 =>
    match s.answer with
    | .byte _ => .fault .noFaultAnswer
    | .fault =>
      match xOut s with
      | none => .fault (.noneRead .cmd)
      | some b => .next (s.exchange b).raiseTransportFault

/-- RESET (R140), in any state. -/
def execReset (s : State) : Result := .next s.resetBlock

end Sys2Proof.Machine
end

