-- ==== Sys2Proof/Machine/Transaction.lean ====
section
/-! DEFINITION. The Transaction Engine family (spec/41_transaction.md). -/

namespace Sys2Proof.Machine

/-- ACCEPT (R91). The channel is judged in IDLE only (60_exceptions R126). -/
def execAccept (ch : Nat) (s : State) : Result :=
  if s.st = .idle then
    match channelOf ch with
    | none => .refused (.invalidChannel ch)
    | some c => .next (s.openFrame c)
  else .fault (.notEnabled s.st)

/-- XCHG1 (R92). Its operand is `CMD[8]` (opcode_table.json). -/
def execXchg1 (c : BitVec 1) (s : State) : Result :=
  if s.st = .x1 then
    if s.cmd.all (fun w => tx1Free w == c) then exchange1 s else .fault .sentBitsDiffer
  else .fault (.notEnabled s.st)

/-- XCHG2 (R93). Its operand is `CMD[7:6]` (opcode_table.json). -/
def execXchg2 (cc : BitVec 2) (s : State) : Result :=
  if s.st = .x2 then
    if s.cmd.all (fun w => tx2Free w == cc) then exchange2 s else .fault .sentBitsDiffer
  else .fault (.notEnabled s.st)

/-- XCHG3 (R94). -/
def execXchg3 (s : State) : Result :=
  if s.st = .x3 then exchange3 s else .fault (.notEnabled s.st)

/-- ACK (R96). -/
def execAck (s : State) : Result :=
  if s.st = .done then acknowledge s else .fault (.notEnabled s.st)

/-- TRANSACT (R90): its five numbered lines in order, a fault skipping the exchanges that remain. It is the operation
not cut off by reset, with a host that acknowledges; the runs that reset cuts are those of single steps
(20_memory R46; log 6). -/
def execTransact (ch : Nat) (s : State) : Result :=
  if s.st = .idle then
    match channelOf ch with
    | none => .refused (.invalidChannel ch)
    | some c =>
      andThen (exchange1 (s.openFrame c)) fun s2 =>
      andThen (whileAt .x2 exchange2 s2) fun s3 =>
      andThen (whileAt .x3 exchange3 s3) acknowledge
  else .fault (.notEnabled s.st)

end Sys2Proof.Machine
end

