-- ==== Sys2Proof/Machine/Dispatch.lean ====
section
/-! DEFINITION. One arm per operation of spec/opcode_table.json. -/

namespace Sys2Proof.Machine

def exec (i : Instr) (s : State) : Host.Outcome State Fault Refusal :=
  match i with
  | .transact ch => Sys2Proof.Machine.execTransact ch s
  | .accept ch => Sys2Proof.Machine.execAccept ch s
  | .xchg1 c => Sys2Proof.Machine.execXchg1 c s
  | .xchg2 cc => Sys2Proof.Machine.execXchg2 cc s
  | .xchg3 => Sys2Proof.Machine.execXchg3 s
  | .ack => Sys2Proof.Machine.execAck s
  | .faultEntry => Sys2Proof.Machine.execFaultEntry s
  | .reset => Sys2Proof.Machine.execReset s
  | .encode ch => Sys2Proof.Machine.execEncode ch s
  | .decode r1 r2 r3 => Sys2Proof.Machine.execDecode r1 r2 r3 s

end Sys2Proof.Machine
end

