-- ==== Sys2Proof/WellFormed.lean ====
section
/-! DEFINITION. Which operations can be written: the channel of spec/00_scope.md R4 is 0 to 7. -/

namespace Sys2Proof

/-- "`admitted(ch)` holds exactly when `ch` is in 0..7" (60_exceptions R124). -/
abbrev channelOk (ch : Nat) : Prop := ch < 8

/-- An operation is well formed when its channel is one; the other operands have no illegal value (30_encoding R71). -/
def Instr.wf : Instr → Bool
  | .transact ch => decide (channelOk ch)
  | .accept ch => decide (channelOk ch)
  | .xchg1 _ => true
  | .xchg2 _ => true
  | .xchg3 => true
  | .ack => true
  | .faultEntry => true
  | .reset => true
  | .encode ch => decide (channelOk ch)
  | .decode _ _ _ => true

end Sys2Proof
end

