-- ==== Sys2Proof/Decode.lean ====
section
/-! DEFINITION. Decoding of the table's words (spec/30_encoding.md), total on any number, and the encoder. -/

namespace Sys2Proof

/-- Why bits at a format are no word of it. -/
inductive Reject where
  /-- A channel of 8 or more: never masked (60_exceptions R124). -/
  | invalidChannel (ch : Nat)
  /-- The number has more bits than the format (30_encoding R60). -/
  | tooWide
  /-- A bit that the format fixes has the other value (R61 to R65, R70). -/
  | fixedBits
  deriving DecidableEq, Repr

/-- What the decoder answers. -/
inductive Decoded where
  | ok (i : Instr)
  | rejected (why : Reject)
  deriving DecidableEq, Repr

/-- F-HREQ, `ccc` (R69). -/
def decodeChannel (w : Nat) (op : Nat → Instr) : Decoded :=
  if channelOk w then .ok (op w) else .rejected (.invalidChannel w)

/-- F-TX1: `CMD_PREFIX[15:9]`, then `c` (R63). -/
def decodeTx1 (c : Config) (b : Byte) : Decoded :=
  if b.extractLsb' 1 7 = c.prefixTop then .ok (.xchg1 (b.extractLsb' 0 1)) else .rejected .fixedBits

/-- F-TX2: `cc000000` (R64). -/
def decodeTx2 (b : Byte) : Decoded :=
  if b.extractLsb' 0 6 = 0#6 then .ok (.xchg2 (b.extractLsb' 6 2)) else .rejected .fixedBits

/-- F-TX3: `00000000` (R65). -/
def decodeTx3 (b : Byte) : Decoded :=
  if b = 0#8 then .ok .xchg3 else .rejected .fixedBits

/-- The one-bit words: only `1` is a word (R70; 10_state R29). -/
def decodeOne (w : Nat) (op : Instr) : Decoded :=
  if w = 1 then .ok op else .rejected .fixedBits

/-- F-CMD: `CMD_PREFIX[15:9]`, the channel, six zeros (R61). -/
def decodeCmd (c : Config) (v : CommandWord) : Decoded :=
  if v.extractLsb' 9 7 = c.prefixTop ∧ v.extractLsb' 0 6 = 0#6 then .ok (.encode (v.extractLsb' 6 3).toNat)
  else .rejected .fixedBits

/-- F-RSP: "No reply bit pattern is illegal" (R67). -/
def decodeRsp (v : BitVec 24) : Decoded :=
  .ok (.decode (v.extractLsb' 16 8) (v.extractLsb' 8 8) (v.extractLsb' 0 8))

/-- The decoder: the bits `w` standing at the format `f` of a block built with `c`. A channel of 8 or more is
reported as such, not as a wide number (60_exceptions R124). -/
def decode (c : Config) (f : Format) (w : Nat) : Decoded :=
  match f with
  | .hreqTransact => decodeChannel w .transact
  | .hreqAccept => decodeChannel w .accept
  | .tx1 => if w < 2 ^ 8 then decodeTx1 c (BitVec.ofNat 8 w) else .rejected .tooWide
  | .tx2 => if w < 2 ^ 8 then decodeTx2 (BitVec.ofNat 8 w) else .rejected .tooWide
  | .tx3 => if w < 2 ^ 8 then decodeTx3 (BitVec.ofNat 8 w) else .rejected .tooWide
  | .hack => if w < 2 ^ 1 then decodeOne w .ack else .rejected .tooWide
  | .rspFault => if w < 2 ^ 1 then decodeOne w .faultEntry else .rejected .tooWide
  | .rst => if w < 2 ^ 1 then decodeOne w .reset else .rejected .tooWide
  | .cmd => if w < 2 ^ 16 then decodeCmd c (BitVec.ofNat 16 w) else .rejected .tooWide
  | .rspFrame => if w < 2 ^ 24 then decodeRsp (BitVec.ofNat 24 w) else .rejected .tooWide

/-- The word of an operation, from the field layouts of 30_encoding (R61 to R70): a channel is placed by its weight,
never cut to three bits (60_exceptions R124). -/
def encode (c : Config) (i : Instr) : TableWord :=
  match i with
  | .transact ch => { format := .hreqTransact, bits := ch }
  | .accept ch => { format := .hreqAccept, bits := ch }
  | .xchg1 b => { format := .tx1, bits := c.prefixTop.toNat * 2 + b.toNat }
  | .xchg2 cc => { format := .tx2, bits := cc.toNat * 2 ^ 6 }
  | .xchg3 => { format := .tx3, bits := 0 }
  | .ack => { format := .hack, bits := 1 }
  | .faultEntry => { format := .rspFault, bits := 1 }
  | .reset => { format := .rst, bits := 1 }
  | .encode ch => { format := .cmd, bits := c.prefixTop.toNat * 2 ^ 9 + ch * 2 ^ 6 }
  | .decode r1 r2 r3 => { format := .rspFrame, bits := r1.toNat * 2 ^ 16 + r2.toNat * 2 ^ 8 + r3.toNat }

/-- Where a bare number of the opcode table stands. Values of different ports coincide (30_encoding R66), so among
words of one size the row that fixes the most bits is taken, and of the two one-bit rows RESET, which beats the other
(60_exceptions R126). DESIGN CHOICE, log 11. -/
def tableFormat (nbits w : Nat) : Option Format :=
  match nbits with
  | 1 => some .rst
  | 3 => some .hreqTransact
  | 8 =>
    if w = 0 then some .tx3
    else if w = 1 then some .rst
    else if w = 4 ∨ w = 5 then some .tx1
    else if w < 8 then some .hreqTransact
    else some .tx2
  | 16 => some .cmd
  | 24 => some .rspFrame
  | _ => none

/-- The instruction that a table row's bits stand for, in a block with the spec's own prefix (00_scope R5). -/
def decodeTableWord (nbits w : Nat) : Option Instr :=
  match tableFormat nbits w with
  | none => none
  | some f =>
    match decode (Config.standard false) f w with
    | .ok i => some i
    | .rejected _ => none

end Sys2Proof
end

