-- ==== Sys2Proof/Machine/Fetch.lean ====
section
/-! DEFINITION. Which operation a step runs: the selection of spec/41_transaction.md R102 from the frame position
and the input lines, or a word driven at the block. -/

namespace Sys2Proof.Machine

/-- What the next step does: an operation, or a stop. -/
inductive Fetched where
  | run (i : Instr)
  | fault (r : Fault)
  | refused (r : Refusal)
  deriving DecidableEq, Repr

/-- The host's lines when it drives nothing: "Inputs not shown are 0" (95_test_vectors 2.3). -/
def idleLines : HostLines := { rst := false, reqValid := false, reqCh := 0, rspReady := false }

/-- The lines of a request (30_encoding R69, R72). -/
def reqLines (ch : Nat) : HostLines := { idleLines with reqValid := true, reqCh := ch }

/-- The lines of an acknowledge (30_encoding R70, R72). -/
def ackLines : HostLines := { idleLines with rspReady := true }

/-- The lines of a reset (30_encoding R72). -/
def rstLines : HostLines := { idleLines with rst := true }

/-- The step function's selection (R102): reset first, then by `ST`. In an open frame the transport's answer says
whether the step is the fault entry or the byte path; the free bits of the byte sent are those of `CMD`. -/
def fetchLines (l : HostLines) (s : State) : Fetched :=
  if l.rst then .run .reset
  else
    match s.st with
    | .idle => if l.reqValid then .run (.accept l.reqCh) else .fault .quiescentIdle
    | .x1 =>
      match s.answer, s.cmd with
      | .fault, _ => .run .faultEntry
      | .byte _, some w => .run (.xchg1 (tx1Free w))
      | .byte _, none => .fault (.noneRead .cmd)
    | .x2 =>
      match s.answer, s.cmd with
      | .fault, _ => .run .faultEntry
      | .byte _, some w => .run (.xchg2 (tx2Free w))
      | .byte _, none => .fault (.noneRead .cmd)
    | .x3 =>
      match s.answer with
      | .fault => .run .faultEntry
      | .byte _ => .run .xchg3
    | .done => if l.rspReady then .run .ack else .fault .quiescentDone

/-- A word driven at the block is decoded. A channel of 8 or more is refused as such in IDLE, and elsewhere the word finds
no transition, as exec has it: "the first is decided in IDLE" (60_exceptions R124, R126; DESIGN CHOICE for a driven word,
log 8). Bits that are no word of their port are refused whatever `ST` is, before any guard is looked at (DESIGN CHOICE,
log 6). -/
def fetchWord (w : TableWord) (s : State) : Fetched :=
  match decode s.cfg w.format w.bits with
  | .ok i => .run i
  | .rejected (.invalidChannel ch) => if s.st = .idle then .refused (.invalidChannel ch) else .fault (.notEnabled s.st)
  | .rejected .tooWide => .refused (.undecodable w)
  | .rejected .fixedBits => .refused (.undecodable w)

/-- The command word of the frame in progress, or, where there is none, of a frame on channel `ch`. -/
def State.orCommand (s : State) (ch : Channel) : CommandWord := s.cmd.getD (commandWord s.cfg ch)

/-- An answer with the byte 0. -/
def zeroReply : Reply := { xIn := 0#8, xFault := false }

/-- The frame position, and the inputs, at which an operation's guard holds (opcode_table.json `guard`), for
withFetchWord alone: a frame open up to that operation. ENCODE and DECODE are placed before the step that uses them
(40_codec): the acceptance of that channel, and the exchange whose reply completes that frame. Log 12. -/
def placeFor (i : Instr) (s : State) : State :=
  match i with
  | .transact _ => { s with st := .idle, csN := 1#1, replies := zeroReply :: zeroReply :: zeroReply :: s.replies }
  | .accept _ => { s with st := .idle, csN := 1#1 }
  | .xchg1 c =>
    { s with st := .x1, csN := 0#1, cmd := some (commandWord s.cfg (c.setWidth 3 <<< 2)), replies := zeroReply :: s.replies }
  | .xchg2 cc =>
    { s with st := .x2, csN := 0#1, cmd := some (commandWord s.cfg (cc.setWidth 3)), replies := zeroReply :: s.replies }
  | .xchg3 =>
    { s with
      st := .x3, csN := 0#1, cmd := some (s.orCommand 0), hi := some (s.hi.getD 0#4), replies := zeroReply :: s.replies }
  | .ack =>
    { s with
      st := .done, csN := 1#1, cmd := some (s.orCommand 0), hi := some 0#4, lo := some 0#8,
      sample := some (sampleOf 0#4 0#8), status := some .ok }
  | .faultEntry =>
    { s with
      st := .x1, csN := 0#1, cmd := some (s.orCommand 0),
      cfg := { s.cfg with transportCanFail := true }, replies := { zeroReply with xFault := true } :: s.replies }
  | .reset => s
  | .encode ch => { s with st := .idle, csN := 1#1, host := .lines (reqLines ch) :: s.host }
  | .decode _ r2 r3 =>
    { s with
      st := .x3, csN := 0#1, cmd := some (s.orCommand 0), hi := some (lowNibble r2),
      replies := { xIn := r3, xFault := false } :: s.replies, host := .lines idleLines :: s.host }

/-- The instruction placed to run at the very next step: its word, in this block's own encoding, is the next row. -/
def placeInstr (i : Instr) (s : State) : State :=
  { placeFor i s with host := .word (encode s.cfg i) :: (placeFor i s).host }

/-- The bits of a table row placed to run at the very next step; bits that are no instruction are driven as they
stand, at F-RSP with a number too wide for it, and the step refuses them. -/
def placeWord (s : State) (nbits w : Nat) : State :=
  match decodeTableWord nbits w with
  | some i => placeInstr i s
  | none => { s with host := .word { format := .rspFrame, bits := 2 ^ 24 + w } :: s.host }

/-- A block built with a 16-bit `CMD_PREFIX` and a transport, after its reset; an illegal prefix is refused
(00_scope R5, 30_encoding R71 item 3; U15). -/
def instantiate (p : CommandWord) (canFail : Bool) : Result :=
  if Config.legalPrefix p then
    .next (State.resetWith { prefixTop := p.extractLsb' 9 7, transportCanFail := canFail })
  else .refused (.illegalPrefix p)

end Sys2Proof.Machine
end

