-- ==== Sys2Proof/Machine/Atomic.lean ====
section
/-! DEFINITION. The atomic step of the block (spec/00_scope.md R11, spec/41_transaction.md R102), and how the rows driven
at the block come to make such steps, and no others. -/

namespace Sys2Proof.Machine

/-- The kinds of step, "one of" which every step of the block is (00_scope R11). -/
inductive StepKind where
  /-- The host's request being accepted (41_transaction R91). -/
  | accept
  /-- One byte exchange, answered a byte or a fault (R92 to R94, 60_exceptions R121). -/
  | exchange
  /-- The host's acknowledgement of a response (R96). -/
  | acknowledge
  /-- Reset (70_reset_and_hazards R140). -/
  | reset
  deriving DecidableEq, Repr

/-- The kind of an operation that is one step of R11. TRANSACT is several of them (R90), ENCODE and DECODE are functions
inside them (40_codec): these three are none. -/
def stepKind : Instr → Option StepKind
  | .accept _ => some .accept
  | .xchg1 _ => some .exchange
  | .xchg2 _ => some .exchange
  | .xchg3 => some .exchange
  | .faultEntry => some .exchange
  | .ack => some .acknowledge
  | .reset => some .reset
  | .transact _ => none
  | .encode _ => none
  | .decode _ _ _ => none

/-- Run what has been selected. -/
def runFetched (f : Fetched) (s : State) : Result :=
  match f with
  | .run i => exec i s
  | .fault r => .fault r
  | .refused r => .refused r

/-- THE STEP OF THE BLOCK, `step(s, inp)` (R102): one atomic step on the host's lines and the transport's answer, of one
of the kinds of R11. -/
def atomicStep (l : HostLines) (s : State) : Result := runFetched (fetchLines l s) s

/-- A decoded word (DESIGN CHOICE, log 6), with `rest` the rows after it. An operation that is one step of R11 is that
step. TRANSACT is "five atomic steps" (41_transaction R90): this one is its acceptance, and the host awaits the others.
ENCODE and DECODE are no step: each is evaluated within the step after it, as the block does within acceptance and
exchange 3 (40_codec). -/
def wordStep (i : Instr) (rest : List HostRow) (after : State → Result) (s : State) : Result :=
  match i with
  | .transact ch => exec (.accept ch) { s with host := .awaiting :: rest }
  | .encode ch => andThen (exec (.encode ch) s) after
  | .decode r1 r2 r3 => andThen (exec (.decode r1 r2 r3) s) after
  | .accept ch => exec (.accept ch) { s with host := rest }
  | .xchg1 c => exec (.xchg1 c) { s with host := rest }
  | .xchg2 cc => exec (.xchg2 cc) { s with host := rest }
  | .xchg3 => exec .xchg3 { s with host := rest }
  | .ack => exec .ack { s with host := rest }
  | .faultEntry => exec .faultEntry { s with host := rest }
  | .reset => exec .reset { s with host := rest }

/-- The step that some driven rows make, one atomic step of the block in every case (00_scope R11). A row of lines is
used by its step; a TRANSACT stays until its response is taken; past the end the host drives nothing (log 5, log 6). -/
def stepRows : List HostRow → State → Result
  | [], s => atomicStep idleLines { s with host := [] }
  | .lines l :: rest, s => atomicStep l { s with host := rest }
  | .awaiting :: rest, s =>
    if s.st = .done then atomicStep ackLines { s with host := rest }
    else atomicStep idleLines { s with host := .awaiting :: rest }
  | .word w :: rest, s =>
    match fetchWord w s with
    | .run i => wordStep i rest (stepRows rest) s
    | .fault r => .fault r
    | .refused r => .refused r

end Sys2Proof.Machine
end

