-- ==== Sys2Proof/Machine/Step.lean ====
section
/-! DEFINITION. One step of the machine (spec/41_transaction.md R102). -/

namespace Sys2Proof.Machine

/-- One step of the machine: one atomic step of the block (00_scope R11), on what is driven at it. -/
def step (s : State) : Host.Outcome State Fault Refusal := stepRows s.host s

/-- `s` with a table row's bits as the next row driven, and the frame position and inputs that operation needs
(placeFor; log 12). -/
def State.withFetchWord (s : State) (nbits w : Nat) : State := placeWord s nbits w

end Sys2Proof.Machine
end

