-- ==== Sys2Proof/Machine/Caller.lean ====
section
/-! DEFINITION. The host's notation and pseudo-operations (spec/30_encoding.md R72, R73): what the caller does with the
block. Host-side control flow "is not part of the block"; it stands here so that bursts can be spoken of. -/

namespace Sys2Proof.Machine

/-- The host notation (R72), and `pause`: the host drives nothing for one turn, its own control flow between two
operations (DESIGN CHOICE, log 18). -/
inductive HostOp where
  /-- `REQ ch`. -/
  | req (ch : Nat)
  /-- `ACK -> (s, v)`. -/
  | ack
  /-- `RESET`. -/
  | reset
  /-- Nothing driven. -/
  | pause
  deriving DecidableEq, Repr

/-- What an ACK reads: `rsp_status` into `s` and `rsp_sample` into `v` (R72). -/
structure HostRead where
  s : BitVec 1
  v : Option Sample
  deriving DecidableEq, Repr

/-- A response as an ACK reads it (R70, R72). -/
def Response.asRead (r : Response) : HostRead := { s := statusCode r.status, v := r.sample }

/-- The lines an operation drives at the next step (R72): REQ presents its request at every step until it is accepted,
ACK raises `rsp_ready` only where `rsp_valid = 1`. -/
def HostOp.lines (op : HostOp) (s : State) : HostLines :=
  match op with
  | .req ch => reqLines ch
  | .ack => if rspValid s then ackLines else idleLines
  | .reset => rstLines
  | .pause => idleLines

/-- Is the operation done with the next step (R72)? REQ where the block is ready, ACK where a response is valid. -/
def HostOp.takenAt (op : HostOp) (s : State) : Bool :=
  match op with
  | .req _ => reqReady s
  | .ack => rspValid s
  | .reset => true
  | .pause => true

/-- What an operation reads at the step that takes it (R72). -/
def HostOp.reads (op : HostOp) (s : State) : List HostRead :=
  match op with
  | .ack =>
    match rspStatusPort s with
    | some c => [{ s := c, v := rspSample s }]
    | none => []
  | .req _ => []
  | .reset => []
  | .pause => []

/-- The step that the block makes of the host's lines, before any row already listed (41_transaction R102). -/
def stepOn (l : HostLines) (s : State) : Result := step { s with host := .lines l :: s.host }

/-- What a program does next. -/
inductive HostTurn where
  /-- Its last operation is issued and `ST = IDLE` (R103). -/
  | ended
  /-- Its last operation is issued and a response is held that it never takes (R103). -/
  | untaken
  /-- A pause that the quiescent block spends without a step. -/
  | skip (rest : List HostOp)
  /-- Lines for the next step, the operations left after it, and what is read at it. -/
  | drive (l : HostLines) (rest : List HostOp) (reads : List HostRead)
  deriving DecidableEq, Repr

/-- The next turn of a host program (R72): an operation not taken stays first, and an open frame goes on when the
program has nothing left to drive (41_transaction R95, R103). -/
def hostTurn (ops : List HostOp) (s : State) : HostTurn :=
  match ops, s.st with
  | [], .idle => .ended
  | [], .done => .untaken
  | [], .x1 => .drive idleLines [] []
  | [], .x2 => .drive idleLines [] []
  | [], .x3 => .drive idleLines [] []
  | .pause :: rest, .idle => .skip rest
  | .pause :: rest, .done => .skip rest
  | op :: rest, _ =>
    if op.takenAt s then .drive (op.lines s) rest (op.reads s) else .drive (op.lines s) (op :: rest) []

/-- Where a run of a host program stands (41_transaction R103). -/
inductive HostRun where
  /-- Ended in IDLE, with what its ACKs read, in order. -/
  | ended (reads : List HostRead) (s : State)
  /-- Ended in DONE: "a response the host never took". -/
  | untaken (reads : List HostRead) (s : State)
  /-- The block is quiescent and the first operation left waits on it: a REQ in DONE, an ACK in IDLE. -/
  | waits (ops : List HostOp) (reads : List HostRead) (s : State)
  /-- The turns given are spent. -/
  | unfinished (ops : List HostOp) (reads : List HostRead) (s : State)
  /-- The block stopped otherwise: in no run from reset (10_state R33, R34). -/
  | fault (r : Fault)
  /-- A request was refused (60_exceptions R124). -/
  | refused (r : Refusal)
  deriving DecidableEq, Repr

/-- A run of a host program (R72, R103), one operation at a time, of at most so many turns (log 18). -/
def runHost : Nat → List HostOp → List HostRead → State → HostRun
  | 0, ops, reads, s => .unfinished ops reads s
  | n + 1, ops, reads, s =>
    match hostTurn ops s with
    | .ended => .ended reads s
    | .untaken => .untaken reads s
    | .skip rest => runHost n rest reads s
    | .drive l rest new =>
      match stepOn l s with
      | .next t => runHost n rest (reads ++ new) t
      | .fault .quiescentIdle => .waits ops reads s
      | .fault .quiescentDone => .waits ops reads s
      | .fault r => .fault r
      | .refused r => .refused r

/-- READONE as a program (R73). -/
def readOneProgram (ch : Nat) : List HostOp := [.req ch, .ack]

/-- READONE on each of some channels, as one program (R73). -/
def readProgram (chs : List Nat) : List HostOp := chs.flatMap readOneProgram

/-- TRANSACT on each of some channels, in order (41_transaction R90; 20_memory R48). -/
def transactAll : List Nat → State → Result
  | [], s => .next s
  | ch :: chs, s => andThen (exec (.transact ch) s) (transactAll chs)

/-- A row in which the host drives nothing: what it drives while an exchange is made. -/
def idleRow : HostRow := .lines idleLines

/-- The rows that READONE comes to where the frame makes `n` exchanges (R73); `runHost` finds the wait itself. -/
def readOneRows (ch n : Nat) : List HostRow :=
  .lines (reqLines ch) :: (List.replicate n idleRow ++ [.lines ackLines])

/-- `n` steps, stopping at the first stop. -/
def runSteps : Nat → State → Result
  | 0, s => .next s
  | n + 1, s => andThen (step s) (runSteps n)

/-- What the caller of a pseudo-operation gets. -/
inductive CallResult where
  /-- The samples, in order, and the block after them. -/
  | samples (vs : List Sample) (s : State)
  /-- Transport-Fault, surfaced to the caller (R73). -/
  | transportFault (s : State)
  /-- TRANSACT had no transition. -/
  | fault (r : Fault)
  /-- TRANSACT was refused. -/
  | refused (r : Refusal)
  deriving DecidableEq, Repr

/-- What the host reads of the last response it took (R70, R96). -/
def callResultOf (s : State) : CallResult :=
  match s.received.getLast? with
  | some { status := .ok, sample := some v } => .samples [v] s
  | some { status := .ok, sample := none } => .fault (.noneRead .sample)
  | some { status := .transportFault, sample := _ } => .transportFault s
  | none => .fault (.noneRead .status)

/-- READONE (R73). -/
def readOne (ch : Nat) (s : State) : CallResult :=
  match exec (.transact ch) s with
  | .next t => callResultOf t
  | .fault r => .fault r
  | .refused r => .refused r

/-- READMANY (R73): `n` times READONE, "on the first `s = 1` stop and surface Transport-Fault" (log 16). -/
def readMany (ch : Nat) : Nat → State → CallResult
  | 0, s => .samples [] s
  | n + 1, s =>
    match readOne ch s with
    | .samples vs t =>
      match readMany ch n t with
      | .samples ws u => .samples (vs ++ ws) u
      | .transportFault u => .transportFault u
      | .fault r => .fault r
      | .refused r => .refused r
    | .transportFault t => .transportFault t
    | .fault r => .fault r
    | .refused r => .refused r

/-- READMANYUNTIL (R73): transact until `p` holds of a result, which is not collected, then READMANY. The loop may
never end, so it is cut after `fuel` transactions and then answers none (log 16). -/
def readManyUntil (ch n : Nat) (p : Sample → Bool) : Nat → State → Option CallResult
  | 0, _ => none
  | fuel + 1, s =>
    match readOne ch s with
    | .samples vs t => if vs.any p then some (readMany ch n t) else readManyUntil ch n p fuel t
    | .transportFault t => some (.transportFault t)
    | .fault r => some (.fault r)
    | .refused r => some (.refused r)

end Sys2Proof.Machine
end

