-- ==== Sys2Proof/Safety.lean ====
section
/-! DEFINITION. What a safe run is: the invariants of spec/10_state.md R34, what a frame in progress holds
(spec/60_exceptions.md R122), and the framing of the bytes on the wire (spec/20_memory.md R44). -/

namespace Sys2Proof.Machine

/-- The block's state as the spec writes it, `{ST, CMD, HI, LO, SAMPLE, STATUS, CS_N, FAULT_SEEN}` (10_state R20): "Nothing
else is state of the block". -/
@[ext]
structure Block where
  st : FrameState
  cmd : Option CommandWord
  hi : Option Nibble
  lo : Option Byte
  sample : Option Sample
  status : Option Status
  csN : BitVec 1
  faultSeen : Bool
  deriving DecidableEq, Repr

/-- The block's own part of the machine's state (R20). -/
def State.block (s : State) : Block :=
  { st := s.st, cmd := s.cmd, hi := s.hi, lo := s.lo, sample := s.sample, status := s.status, csN := s.csN,
    faultSeen := s.faultSeen }

/-- A frame is open: `ST` is X1, X2 or X3 (R21). -/
def frameOpen (p : FrameState) : Prop := p = .x1 ∨ p = .x2 ∨ p = .x3

/-- The invariants of 10_state R34, by its numbers; item 6 is the type of `st`. -/
structure Inv (s : State) : Prop where
  /-- 1: `CS_N = 0` if and only if a frame is open. -/
  csLow : s.csN = 0#1 ↔ frameOpen s.st
  /-- 2: outside IDLE `CMD` holds a command word. -/
  cmdHeld : s.st ≠ .idle → s.cmd ≠ none
  /-- 2: `CMD` is none or the command word of a channel. -/
  cmdWord : ∀ w, s.cmd = some w → ∃ ch : Channel, w = commandWord s.cfg ch
  /-- 3: in X3 the nibble has been captured. -/
  hiHeld : s.st = .x3 → s.hi ≠ none
  /-- 4: in DONE there is a status. -/
  statusHeld : s.st = .done → s.status ≠ none
  /-- 4: in DONE with OK the sample is the decoded one. -/
  sampleDecoded : s.st = .done → s.status = some .ok →
    ∃ n b, s.hi = some n ∧ s.lo = some b ∧ s.sample = some (sampleOf n b)
  /-- 5: after a fault there is no sample, and the sticky bit is set. -/
  faultMarked : s.status = some .transportFault → s.sample = none ∧ s.faultSeen = true

/-- What a frame in progress holds: ACCEPT has cleared the data registers (41_transaction R91), and each is written by
its own exchange only (60_exceptions R122). -/
structure FrameInv (s : State) : Prop where
  beforeNibble : s.st = .x1 ∨ s.st = .x2 → s.hi = none
  openFrame : frameOpen s.st → s.lo = none ∧ s.sample = none ∧ s.status = none
  afterFault : s.st = .done → s.status = some .transportFault → s.lo = none

/-- The bus as its three lines show it: no frame, a frame with so many exchanges, a frame whose last exchange failed, or
a sequence that 20_memory R44 forbids. -/
inductive BusPos where
  | closed
  | opened (n : Nat)
  | faulted
  | broken
  deriving DecidableEq, Repr

/-- One event on the bus (R44): "No exchange is made while `CS_N = 1`", at most three in a frame, and after a failed
one only chip-select going to 1. -/
def busNext (p : BusPos) (e : WireEvent) : BusPos :=
  match p, e with
  | .closed, .cs v => if v = 1#1 then .closed else .opened 0
  | .closed, .xchg _ _ => .broken
  | .opened _, .cs v => if v = 1#1 then .closed else .broken
  | .opened n, .xchg _ (.byte _) => if n < 3 then .opened (n + 1) else .broken
  | .opened n, .xchg _ .fault => if n < 3 then .faulted else .broken
  | .faulted, .cs v => if v = 1#1 then .closed else .broken
  | .faulted, .xchg _ _ => .broken
  | .broken, _ => .broken

/-- Where the bus stands after a sequence of events, from no frame. -/
def busPos (l : List WireEvent) : BusPos := l.foldl busNext .closed

/-- Where the bus stands at a frame position (R21). -/
def busPosOf : FrameState → BusPos
  | .idle => .closed
  | .x1 => .opened 0
  | .x2 => .opened 1
  | .x3 => .opened 2
  | .done => .closed

/-- The wire so far is a sequence of frames as R44 describes them, and `ST` says where in one the block stands. -/
def Framed (s : State) : Prop := busPos s.wire = busPosOf s.st

/-- Is this event chip-select going low, that is an accepted request? -/
def WireEvent.opens : WireEvent → Bool
  | .cs v => v == 0#1
  | .xchg _ _ => false

/-- How many requests have been accepted. -/
def acceptedCount (s : State) : Nat := s.wire.countP WireEvent.opens

/-- "one per accepted request" (20_memory R48): there are no more responses, taken and still owed, than requests. -/
def OneResponseEach (s : State) : Prop :=
  s.received.length + (if s.st = .idle then 0 else 1) ≤ acceptedCount s

/-- The host drives its lines alone, row by row: the block of 10_state R29, with no word of the table (log 6). -/
def PortLevel (s : State) : Prop := ∀ row ∈ s.host, ∃ l, row = .lines l

/-- A block whose transport cannot fail has seen no fault (60_exceptions R125). -/
def NoFault (s : State) : Prop := s.faultSeen = false ∧ s.status ≠ some .transportFault

end Sys2Proof.Machine
end

