-- ==== Sys2Proof/Certificates/Slice0/Obligations.lean ====
section
/-! DEFINITION. The statements for the provers. Each docstring names the rule of spec/ it formalises; a statement that
rests on a choice of the model says so and names the log entry. -/

open Sys2Proof Sys2Proof.Machine

/-! ## The Command Codec -/

/-- ENCODE (40_codec R80): every channel 0 to 7 encodes, to `CMD_PREFIX | (zext_16(ch) << 6)`, and no register, input or
record changes. That the word is recorded in `codecOut` is the model's choice (log 10). -/
def Obligations.EncodeGivesPrefixOrShiftedChannel : Prop :=
  ∀ (s : State) (ch : Nat), ch < 8 →
    exec (.encode ch) s =
      .next { s with codecOut := some (.command (s.cfg.cmdPrefix ||| (BitVec.ofNat 16 ch <<< 6))) }

/-- 40_codec R81: the fields of a command word with the default prefix. -/
def Obligations.EncodeFieldValuesWithDefaultPrefix : Prop :=
  ∀ (canFail : Bool) (ch : Channel),
    (commandWord (Config.standard canFail) ch).extractLsb' 11 5 = 0#5 ∧
    (commandWord (Config.standard canFail) ch).extractLsb' 10 1 = 1#1 ∧
    (commandWord (Config.standard canFail) ch).extractLsb' 9 1 = 0#1 ∧
    (commandWord (Config.standard canFail) ch).extractLsb' 6 3 = ch ∧
    (commandWord (Config.standard canFail) ch).extractLsb' 0 6 = 0#6 ∧
    (commandWord (Config.standard canFail) ch).extractLsb' 8 8 = 0x04#8 ||| (ch.extractLsb' 2 1).setWidth 8 ∧
    (commandWord (Config.standard canFail) ch).extractLsb' 0 8 = (ch.extractLsb' 0 2).setWidth 8 <<< 6

/-- 40_codec R82, for every legal prefix: ENCODE is injective and keeps the order, the channel is read back from bits
[8:6], and the bits outside them are the prefix. -/
def Obligations.EncodeIsInjectiveAndOrdered : Prop :=
  ∀ (c : Config) (a b : Channel),
    (commandWord c a = commandWord c b ↔ a = b) ∧
    (commandWord c a < commandWord c b ↔ a < b) ∧
    (commandWord c a).extractLsb' 6 3 = a ∧
    commandWord c a &&& 0xFE3F#16 = c.cmdPrefix

/-- DECODE (40_codec R83): every reply frame decodes, to `(zext_12(r2[3:0]) << 8) | zext_12(r3)`, and no register, input
or record changes. That the sample is recorded in `codecOut` is the model's choice (log 10). -/
def Obligations.DecodeJoinsNibbleAndLowByte : Prop :=
  ∀ (s : State) (r1 r2 r3 : Byte),
    exec (.decode r1 r2 r3) s =
      .next { s with
        codecOut := some (.sample (((r2.extractLsb' 0 4).setWidth 12 <<< 8) ||| r3.setWidth 12)) }

/-- 40_codec R84: the first reply and the upper nibble of the second change no sample, neither of DECODE nor of a
whole TRANSACT, whose sample is `Decode(r2 & 0x0F, r3)`. -/
def Obligations.IgnoredReplyBitsChangeNoSample : Prop :=
  (∀ (s : State) (r1 r1' r2 r2' r3 : Byte), r2 &&& 0x0F#8 = r2' &&& 0x0F#8 →
    exec (.decode r1 r2 r3) s = exec (.decode r1' r2' r3) s) ∧
  (∀ (s : State) (ch : Nat) (r1 r1' r2 r2' r3 : Byte) (rest : List Reply), s.st = .idle → ch < 8 →
    r2 &&& 0x0F#8 = r2' &&& 0x0F#8 →
    ∃ t t', exec (.transact ch) { s with replies := ⟨r1, false⟩ :: ⟨r2, false⟩ :: ⟨r3, false⟩ :: rest } = .next t ∧
      exec (.transact ch) { s with replies := ⟨r1', false⟩ :: ⟨r2', false⟩ :: ⟨r3, false⟩ :: rest } = .next t' ∧
      t.sample = t'.sample ∧
      t.sample = some (sampleOf ((r2 &&& 0x0F#8).setWidth 4) r3))

/-- 40_codec R85, R87: DECODE is bounded by 4095, onto, and the inverse of the byte split. -/
def Obligations.DecodeIsBoundedOntoAndInvertsTheSplit : Prop :=
  (∀ v : Sample, sampleOf (v.extractLsb' 8 4) (v.extractLsb' 0 8) = v) ∧
  (∀ (n : Nibble) (lo : Byte),
    (sampleOf n lo).extractLsb' 8 4 = n ∧ (sampleOf n lo).extractLsb' 0 8 = lo) ∧
  (∀ r2 r3 : Byte, (sampleOf (lowNibble r2) r3).toNat ≤ 4095)

/-- 40_codec R86: neither function loses a bit or carries; as numbers they are sums of their parts. -/
def Obligations.CodecLosesNoBit : Prop :=
  (∀ (c : Config) (ch : Channel), (commandWord c ch).toNat = c.cmdPrefix.toNat + ch.toNat * 64) ∧
  (∀ (n : Nibble) (lo : Byte), (sampleOf n lo).toNat = n.toNat * 256 + lo.toNat)

/-- 60_exceptions R124: a channel of 8 or more is refused by name, by every operation that takes one and by a request on
the lines, with no next state; a channel of 0 to 7 is taken. -/
def Obligations.ChannelsOutsideTheRangeAreRefused : Prop :=
  ∀ (s : State) (ch : Nat) (rest : List HostRow) (ready : Bool), s.st = .idle →
    (8 ≤ ch →
      exec (.accept ch) s = .refused (.invalidChannel ch) ∧
      exec (.transact ch) s = .refused (.invalidChannel ch) ∧
      exec (.encode ch) s = .refused (.invalidChannel ch) ∧
      step { s with host := .lines ⟨false, true, ch, ready⟩ :: rest } = .refused (.invalidChannel ch)) ∧
    (ch < 8 → ∃ t, step { s with host := .lines ⟨false, true, ch, ready⟩ :: rest } = .next t ∧ t.st = .x1)

/-! ## The steps of a frame -/

/-- ACCEPT (41_transaction R91): in IDLE every channel 0 to 7 is taken and the frame opens; outside IDLE, and for any
other channel, there is no such step. -/
def Obligations.AcceptOpensTheFrame : Prop :=
  ∀ (s : State) (ch : Nat),
    (s.st = .idle → ch < 8 → ∃ t, exec (.accept ch) s = .next t ∧
      t.block = { st := .x1, cmd := some (s.cfg.cmdPrefix ||| (BitVec.ofNat 16 ch <<< 6)), hi := none, lo := none,
                  sample := none, status := none, csN := 0#1, faultSeen := s.faultSeen }) ∧
    (s.st ≠ .idle → ∀ t, exec (.accept ch) s ≠ .next t) ∧
    (8 ≤ ch → ∀ t, exec (.accept ch) s ≠ .next t)

/-- XCHG1 (41_transaction R92): `CMD[15:8]` is offered; a byte is discarded and `ST` becomes X2, a fault takes the fault
entry; nothing else of the block changes. The operation's free bit is `CMD[8]` (opcode_table.json). -/
def Obligations.FirstExchangeSendsHighByte : Prop :=
  ∀ (s : State) (w : CommandWord), s.st = .x1 → s.cmd = some w →
    xOut s = some (w.extractLsb' 8 8) ∧
    (∀ r1, s.answer = .byte r1 → ∃ t, exec (.xchg1 (w.extractLsb' 8 1)) s = .next t ∧
      t.block = { s.block with st := .x2 }) ∧
    (s.answer = .fault → ∃ t, exec (.xchg1 (w.extractLsb' 8 1)) s = .next t ∧
      t.block = { s.block with
        csN := 1#1, sample := none, status := some .transportFault, faultSeen := true, st := .done })

/-- XCHG2 (41_transaction R93): `CMD[7:0]` is offered; of a byte the low nibble goes to `HI` and `ST` becomes X3, a fault
takes the fault entry; nothing else of the block changes. The operation's free bits are `CMD[7:6]`
(opcode_table.json). -/
def Obligations.SecondExchangeCapturesNibble : Prop :=
  ∀ (s : State) (w : CommandWord), s.st = .x2 → s.cmd = some w →
    xOut s = some (w.extractLsb' 0 8) ∧
    (∀ r2, s.answer = .byte r2 → ∃ t, exec (.xchg2 (w.extractLsb' 6 2)) s = .next t ∧
      t.block = { s.block with hi := some (r2.extractLsb' 0 4), st := .x3 }) ∧
    (s.answer = .fault → ∃ t, exec (.xchg2 (w.extractLsb' 6 2)) s = .next t ∧
      t.block = { s.block with
        csN := 1#1, sample := none, status := some .transportFault, faultSeen := true, st := .done })

/-- XCHG3 (41_transaction R94): the filler is offered; a byte gives `LO`, `SAMPLE` and OK and closes the frame, a fault
takes the fault entry; nothing else of the block changes. -/
def Obligations.ThirdExchangeDecodesAndCloses : Prop :=
  ∀ (s : State) (n : Nibble), s.st = .x3 → s.hi = some n →
    xOut s = some 0x00#8 ∧
    (∀ r3, s.answer = .byte r3 → ∃ t, exec .xchg3 s = .next t ∧
      t.block = { s.block with
        lo := some r3, sample := some ((n.setWidth 12 <<< 8) ||| r3.setWidth 12), status := some .ok, csN := 1#1,
        st := .done }) ∧
    (s.answer = .fault → ∃ t, exec .xchg3 s = .next t ∧
      t.block = { s.block with
        csN := 1#1, sample := none, status := some .transportFault, faultSeen := true, st := .done })

/-- 00_scope R6: a block whose transport cannot fail is never answered `fault`; where it can, any exchange may be, and
then the fault entry of 60_exceptions R121 is taken. -/
def Obligations.OnlyAFailingTransportAnswersFault : Prop :=
  ∀ s : State,
    (s.cfg.transportCanFail = false → s.answer ≠ .fault) ∧
    (s.cfg.transportCanFail = true → ∃ rs, ({ s with replies := rs } : State).answer = .fault ∧
      ∀ b, xOut s = some b → ∃ t, exec .faultEntry { s with replies := rs } = .next t ∧
        t.st = .done ∧ t.status = some .transportFault)

/-- The guards of the operations (41_transaction R90 to R96, 60_exceptions R121): each runs at its own frame position
only, and the fault entry where an exchange is pending that the transport answers `fault`. That the others stop by a
named fault is the model's choice (log 7). -/
def Obligations.EachOperationNeedsItsPosition : Prop :=
  ∀ (s t : State),
    (∀ ch, exec (.transact ch) s = .next t → s.st = .idle ∧ ch < 8) ∧
    (∀ ch, exec (.accept ch) s = .next t → s.st = .idle ∧ ch < 8) ∧
    (∀ c, exec (.xchg1 c) s = .next t → s.st = .x1) ∧
    (∀ cc, exec (.xchg2 cc) s = .next t → s.st = .x2) ∧
    (exec .xchg3 s = .next t → s.st = .x3) ∧
    (exec .ack s = .next t → s.st = .done) ∧
    (exec .faultEntry s = .next t → frameOpen s.st ∧ s.answer = .fault)

/-- The model's reading of the transport's ports (10_state R29, 00_scope R10; log 1, log 3): an exchange uses one listed
answer, or past the end of the list one free draw, whatever it is, and so does each of the three exchanges, and the fault
entry, where exec answers a next state. A raised fault line is read as a fault only where the transport can fail. -/
def Obligations.EachExchangeUsesOneAnswer : Prop :=
  ∀ (s : State),
    (∀ out r rest, s.replies = r :: rest →
      s.exchange out = { s with replies := rest, wire := s.wire ++ [.xchg out s.answer] } ∧
      s.takeReply = { s with replies := rest } ∧
      s.answer = if r.xFault = true ∧ s.cfg.transportCanFail = true then .fault else .byte r.xIn) ∧
    (∀ out, s.replies = [] →
      s.exchange out = { s with draws := s.draws + 1, wire := s.wire ++ [.xchg out s.answer] } ∧
      s.takeReply = { s with draws := s.draws + 1 } ∧
      s.answer = if Config.freeFault s.draws = true ∧ s.cfg.transportCanFail = true then .fault
        else .byte (Config.freeReply s.draws)) ∧
    (∀ c cc t,
      exec (.xchg1 c) s = .next t ∨ exec (.xchg2 cc) s = .next t ∨ exec .xchg3 s = .next t ∨
        exec .faultEntry s = .next t →
      t.replies = s.replies.tail ∧ t.draws = if s.replies = [] then s.draws + 1 else s.draws)

/-- ACK (41_transaction R96): in DONE the ports show the status, with the sample where it is OK, and `ST` becomes IDLE;
every other register keeps its value, and after a fault it is the same. -/
def Obligations.AckDeliversTheResponse : Prop :=
  ∀ (s : State), s.st = .done →
    (∀ v, s.status = some .ok → s.sample = some v →
      rspStatus s = some .ok ∧ rspSample s = some v ∧
      ∃ t, exec .ack s = .next t ∧ t.block = { s.block with st := .idle }) ∧
    (s.status = some .transportFault →
      rspStatus s = some .transportFault ∧ rspSample s = none ∧
      ∃ t, exec .ack s = .next t ∧ t.block = { s.block with st := .idle })

/-- What the operations of a frame leave in the inputs and the records (the model's own fields; log 1, log 10): an
exchange uses one answer and is on the wire with the byte offered, chip-select is on the wire where it is driven, ACK
hands over what the ports show, and nothing else of those fields changes. -/
def Obligations.OperationsUseInputsAndRecordOutputs : Prop :=
  ∀ (s t : State) (ch : Nat) (c : BitVec 1) (cc : BitVec 2),
    (exec (.accept ch) s = .next t →
      t.wire = s.wire ++ [.cs 0#1] ∧ t.replies = s.replies ∧ t.draws = s.draws ∧ t.received = s.received) ∧
    (∀ b, xOut s = some b →
      exec (.xchg1 c) s = .next t ∨ exec (.xchg2 cc) s = .next t ∨ exec .xchg3 s = .next t ∨
        exec .faultEntry s = .next t →
      t.wire = s.wire ++ (.xchg b s.answer :: if t.st = .done then [.cs 1#1] else []) ∧
      t.replies = s.takeReply.replies ∧ t.draws = s.takeReply.draws ∧ t.received = s.received) ∧
    (exec .ack s = .next t →
      (∃ st, rspStatus s = some st ∧ t.received = s.received ++ [⟨st, rspSample s⟩]) ∧
      t.wire = s.wire ∧ t.replies = s.replies ∧ t.draws = s.draws) ∧
    (exec .reset s = .next t →
      t.wire = s.wire ++ [.cs 1#1] ∧ t.replies = s.replies ∧ t.draws = s.draws ∧ t.received = s.received) ∧
    (∀ i, exec i s = .next t → t.host = s.host ∧
      ((∀ n, i ≠ .encode n) → (∀ r1 r2 r3, i ≠ .decode r1 r2 r3) → t.codecOut = s.codecOut))

/-! ## Transport-Fault and reset -/

/-- FAULT_ENTRY (60_exceptions R121): with an exchange pending and the transport answering `fault`, chip-select goes to
1, there is no sample, the status is TRANSPORT_FAULT, the sticky bit is set and `ST` is DONE; `CMD`, `HI` and `LO` keep
whatever they held. -/
def Obligations.FaultEntryEndsTheFrame : Prop :=
  ∀ (s : State) (b : Byte), xOut s = some b → s.answer = .fault →
    ∃ t, exec .faultEntry s = .next t ∧
      t.block = { s.block with
        csN := 1#1, sample := none, status := some .transportFault, faultSeen := true, st := .done }

/-- 60_exceptions R121: "that step does the following instead of its byte path": each exchange, answered `fault`, is
the fault entry. -/
def Obligations.EachExchangeFaultsAsTheFaultEntry : Prop :=
  ∀ (s : State), s.answer = .fault →
    (∀ w, s.st = .x1 → s.cmd = some w → exec (.xchg1 (tx1Free w)) s = exec .faultEntry s) ∧
    (∀ w, s.st = .x2 → s.cmd = some w → exec (.xchg2 (tx2Free w)) s = exec .faultEntry s) ∧
    (s.st = .x3 → exec .xchg3 s = exec .faultEntry s)

/-- 60_exceptions R122: what a fault in each exchange leaves in `CMD`, `HI` and `LO`, and that the failed exchange is
the only thing added to the wire before chip-select goes to 1. -/
def Obligations.FaultLeavesEarlierCapturesOnly : Prop :=
  ∀ (s t : State) (b : Byte), Inv s → FrameInv s → xOut s = some b → s.answer = .fault →
    exec .faultEntry s = .next t →
    t.cmd = s.cmd ∧ t.lo = none ∧
    (s.st = .x1 ∨ s.st = .x2 → t.hi = none) ∧
    (s.st = .x3 → t.hi = s.hi ∧ s.hi ≠ none) ∧
    t.wire = s.wire ++ [.xchg b .fault, .cs 1#1] ∧
    rspStatus t = some .transportFault ∧ rspSample t = none

/-- RESET (70_reset_and_hazards R140): in any state the next state is ResetState, with the outputs R140 names, and
no exchange is made; with `rst = 1` the next step is that reset. -/
def Obligations.ResetRestoresResetState : Prop :=
  ∀ (s : State), ∃ t, exec .reset s = .next t ∧
    t.block = { st := .idle, csN := 1#1, faultSeen := false, cmd := none, hi := none, lo := none, sample := none,
                status := none } ∧
    (∀ b a, WireEvent.xchg b a ∈ t.wire → WireEvent.xchg b a ∈ s.wire) ∧
    reqReady t = true ∧ rspValid t = false ∧ csPort t = 1#1 ∧ xOut t = none ∧ rspStatus t = none ∧ rspSample t = none ∧
    (∀ valid ready ch rest, ∃ u,
      step { s with host := .lines ⟨true, valid, ch, ready⟩ :: rest } = .next u ∧ u.block = t.block)

/-- 60_exceptions R126, 70_reset_and_hazards R142: with `rst = 1` the step is reset, whatever `ST`, the request, the
acknowledge and the transport's answer are; a request on those lines is not taken. -/
def Obligations.ResetBeatsEveryOtherStep : Prop :=
  ∀ (s : State) (rest : List HostRow) (valid ready : Bool) (ch : Nat),
    step { s with host := .lines ⟨true, valid, ch, ready⟩ :: rest } = exec .reset { s with host := rest }

/-- 70_reset_and_hazards R140 of the machine a run starts from (R143): the reset values of 10_state R21 to R28, for every
block; with the spec's own prefix. The empty inputs and records are the model's choice (log 1, log 5, log 10). -/
def Obligations.RunsStartAtResetState : Prop :=
  (∀ c : Config,
    (State.resetWith c).st = .idle ∧ (State.resetWith c).csN = 1#1 ∧ (State.resetWith c).faultSeen = false ∧
    (State.resetWith c).cmd = none ∧ (State.resetWith c).hi = none ∧ (State.resetWith c).lo = none ∧
    (State.resetWith c).sample = none ∧ (State.resetWith c).status = none ∧ (State.resetWith c).cfg = c) ∧
  State.reset = State.resetWith State.reset.cfg ∧ State.reset.cfg.cmdPrefix = 0x0400#16

/-- 00_scope R5, 30_encoding R71 item 3: a block is built with exactly the legal prefixes, and any other is refused. -/
def Obligations.OnlyLegalPrefixesAreInstantiated : Prop :=
  ∀ (p : CommandWord) (canFail : Bool),
    (p &&& 0x01FF#16 = 0#16 →
      ∃ t, instantiate p canFail = .next t ∧ t = State.resetWith t.cfg ∧ t.cfg.cmdPrefix = p ∧
        t.cfg.transportCanFail = canFail) ∧
    (p &&& 0x01FF#16 ≠ 0#16 → instantiate p canFail = .refused (.illegalPrefix p))

/-! ## Invariants -/

/-- The invariants of 10_state R34, 60_exceptions R122 and 20_memory R44, R48 hold of every block right after reset. -/
def Obligations.ResetStateMeetsTheInvariants : Prop :=
  ∀ c : Config,
    Inv (State.resetWith c) ∧ FrameInv (State.resetWith c) ∧ Framed (State.resetWith c) ∧
    OneResponseEach (State.resetWith c) ∧ NoFault (State.resetWith c)

/-- 10_state R34: every step keeps the six invariants, whatever the host drives and the transport answers. -/
def Obligations.EveryStepKeepsTheStateInvariants : Prop :=
  ∀ s t : State, Inv s → step s = .next t → Inv t

/-- Every step keeps what a frame in progress holds (10_state R23 to R25, 60_exceptions R122). -/
def Obligations.EveryStepKeepsTheFrameInvariants : Prop :=
  ∀ s t : State, FrameInv s → step s = .next t → FrameInv t

/-- 20_memory R44: the wire is always a sequence of frames, each of at most three exchanges inside one chip-select-low
window and none outside, a failed exchange the last of its frame; and `ST` says how many have been made. -/
def Obligations.TheWireIsAlwaysFramed : Prop :=
  ∀ s t : State, Framed s → step s = .next t → Framed t

/-- 20_memory R48: responses are delivered one per accepted request, never more than there are requests. -/
def Obligations.AtMostOneResponsePerRequest : Prop :=
  ∀ s t : State, OneResponseEach s → step s = .next t → OneResponseEach t

/-- 60_exceptions R125: with a transport that cannot fail, no exchange is answered `fault`, the fault entry is never taken, `STATUS` is OK in every DONE
and `FAULT_SEEN` stays 0. -/
def Obligations.ANonFailingBlockSeesNoFault : Prop :=
  ∀ s t : State, s.cfg.transportCanFail = false → NoFault s → step s = .next t →
    NoFault t ∧ s.answer ≠ .fault ∧ t.answer ≠ .fault ∧ (Inv s → t.st = .done → t.status = some .ok) ∧
    (∀ u, exec .faultEntry s ≠ .next u)

/-- 10_state R32: "Configuration is fixed at instantiation": no step writes the parameters. -/
def Obligations.NoStepWritesTheConfiguration : Prop :=
  ∀ s t : State, step s = .next t → t.cfg = s.cfg

/-- 10_state R22: `CMD` is written at acceptance, and by reset, and by no other operation. -/
def Obligations.CommandIsWrittenAtAcceptanceOnly : Prop :=
  ∀ (i : Instr) (s t : State), exec i s = .next t →
    (∀ ch, i ≠ .accept ch) → (∀ ch, i ≠ .transact ch) → i ≠ .reset → t.cmd = s.cmd

/-- 10_state R28: the fault entry sets `FAULT_SEEN`, and only reset clears it. -/
def Obligations.FaultSeenIsSticky : Prop :=
  ∀ (i : Instr) (s t : State), exec i s = .next t →
    (s.faultSeen = true → t.faultSeen = true ∨ i = .reset) ∧
    (s.faultSeen = false → t.faultSeen = true → t.status = some .transportFault)

/-- 10_state R28 ("No rule reads it") and the model's records (log 10): the registers, the inputs and the stops of a
step are the same whatever `FAULT_SEEN` and the records hold. -/
def Obligations.FaultSeenAndRecordsAreNeverRead : Prop :=
  ∀ (s : State) (b : Bool) (w : List WireEvent) (r : List Response) (k : Option CodecResult),
    (∀ t, step s = .next t → ∃ b' w' r' k',
      step { s with faultSeen := b, wire := w, received := r, codecOut := k } =
        .next { t with faultSeen := b', wire := w', received := r', codecOut := k' }) ∧
    (∀ e, step s = .fault e →
      step { s with faultSeen := b, wire := w, received := r, codecOut := k } = .fault e) ∧
    (∀ e, step s = .refused e →
      step { s with faultSeen := b, wire := w, received := r, codecOut := k } = .refused e)

/-- 10_state R21's column `next`, R31, 41_transaction R100: `ST` moves only along IDLE, X1, X2, X3, DONE, IDLE, from an
exchange to DONE, and by reset to IDLE; an exchange is never repeated. -/
def Obligations.FramePositionsAdvanceInOrder : Prop :=
  ∀ (i : Instr) (s t : State), exec i s = .next t → i ≠ .reset → (∀ ch, i ≠ .transact ch) →
    (∀ ch, i ≠ .encode ch) → (∀ r1 r2 r3, i ≠ .decode r1 r2 r3) →
    (s.st = .idle → t.st = .x1) ∧
    (s.st = .x1 → t.st = .x2 ∨ t.st = .done) ∧
    (s.st = .x2 → t.st = .x3 ∨ t.st = .done) ∧
    (s.st = .x3 → t.st = .done) ∧
    (s.st = .done → t.st = .idle)

/-! ## The step function -/

/-- 00_scope R11: every step of the machine, whatever rows are driven, is one atomic step of the block on some lines, from
the same state but for the rows and the record `codecOut`; and each of those is one acceptance, exchange,
acknowledgement or reset, at its frame position. A block driven by lines alone uses one row a step and stays so. That
rows of other kinds may be driven is the model's choice (log 6), as are the records (log 10). -/
def Obligations.StepsAreMadeOfTheFourKinds : Prop :=
  (∀ s t : State, step s = .next t → ∃ l r k, atomicStep l { s with host := r, codecOut := k } = .next t) ∧
  (∀ (l : HostLines) (s t : State), atomicStep l s = .next t →
    ∃ i k, exec i s = .next t ∧ stepKind i = some k ∧
      (k = .accept → s.st = .idle ∧ t.st = .x1 ∧ l.reqValid = true) ∧
      (k = .exchange → frameOpen s.st ∧ ∃ b rest, xOut s = some b ∧ t.wire = s.wire ++ .xchg b s.answer :: rest) ∧
      (k = .acknowledge → s.st = .done ∧ t.st = .idle ∧ l.rspReady = true) ∧
      (k = .reset ↔ l.rst = true)) ∧
  (∀ s t : State, PortLevel s → step s = .next t →
    PortLevel t ∧ t.host = s.host.tail ∧ ∃ l, s.host.headD (.lines idleLines) = .lines l ∧
      atomicStep l { s with host := s.host.tail } = .next t)

/-- 41_transaction R102, for a row of lines: the table of the step function, read in a state that meets R34. The rule's
"NoStep" is a stop by name here (log 7). -/
def Obligations.StepFollowsItsTable : Prop :=
  ∀ (s : State) (l : HostLines) (rest : List HostRow), Inv s → l.rst = false → s.host = .lines l :: rest →
    (s.st = .idle → l.reqValid = true → step s = exec (.accept l.reqCh) { s with host := rest }) ∧
    (s.st = .idle → l.reqValid = false → step s = .fault .quiescentIdle) ∧
    (frameOpen s.st → s.answer = .fault → step s = exec .faultEntry { s with host := rest }) ∧
    (∀ b w, s.st = .x1 → s.answer = .byte b → s.cmd = some w →
      step s = exec (.xchg1 (tx1Free w)) { s with host := rest }) ∧
    (∀ b w, s.st = .x2 → s.answer = .byte b → s.cmd = some w →
      step s = exec (.xchg2 (tx2Free w)) { s with host := rest }) ∧
    (∀ b, s.st = .x3 → s.answer = .byte b → step s = exec .xchg3 { s with host := rest }) ∧
    (s.st = .done → l.rspReady = true → step s = exec .ack { s with host := rest }) ∧
    (s.st = .done → l.rspReady = false → step s = .fault .quiescentDone)

/-- 41_transaction R95: in X1, X2 and X3 a step is always enabled, also when the host drives nothing; in IDLE the only
steps are ACCEPT and reset, in DONE only ACK and reset. -/
def Obligations.AnOpenFrameAlwaysHasAStep : Prop :=
  ∀ (s : State) (l : HostLines) (rest : List HostRow), Inv s →
    (frameOpen s.st → ∃ t, step { s with host := .lines l :: rest } = .next t) ∧
    (frameOpen s.st → ∃ t, step { s with host := [] } = .next t) ∧
    (∀ t, s.st = .idle → step { s with host := .lines l :: rest } = .next t → l.rst = true ∨ l.reqValid = true) ∧
    (∀ t, s.st = .done → step { s with host := .lines l :: rest } = .next t → l.rst = true ∨ l.rspReady = true)

/-- 41_transaction R97, R103: the block is quiescent in IDLE without a request and in DONE without `rsp_ready`, with a
request present or not. The stop's name is the model's (log 7). -/
def Obligations.QuiescentStatesMakeNoStep : Prop :=
  ∀ (s : State) (valid ready : Bool) (ch : Nat) (rest : List HostRow),
    (s.st = .idle →
      step { s with host := .lines ⟨false, false, ch, ready⟩ :: rest } = .fault .quiescentIdle ∧
      step { s with host := [] } = .fault .quiescentIdle) ∧
    (s.st = .done →
      step { s with host := .lines ⟨false, valid, ch, false⟩ :: rest } = .fault .quiescentDone ∧
      step { s with host := [] } = .fault .quiescentDone)

/-- 41_transaction R98: outside IDLE neither `req_valid` nor `req_ch` is read: a request changes nothing while the block
is busy, and a change of channel changes nothing in the frame in progress. -/
def Obligations.BusyBlockDoesNotReadTheRequest : Prop :=
  ∀ (s : State) (l : HostLines) (valid : Bool) (ch : Nat) (rest : List HostRow), s.st ≠ .idle →
    step { s with host := .lines { l with reqValid := valid, reqCh := ch } :: rest } =
      step { s with host := .lines l :: rest }

/-- A step runs the word driven at the block (a choice of the model, log 6). Where it decodes to an operation that is one
step of 00_scope R11, the step is exec of it, with the row used. TRANSACT is begun with its ACCEPT, and as many steps as
its frame has (one, two or three exchanges, by the first fault) end where exec of it ends, with the row used. ENCODE and
DECODE are evaluated, and the step is the next one from there. -/
def Obligations.StepRunsTheDecodedWord : Prop :=
  ∀ (s : State) (w : TableWord) (i : Instr) (rest : List HostRow), s.host = .word w :: rest →
    decode s.cfg w.format w.bits = .ok i →
    (stepKind i ≠ none → step s = exec i { s with host := rest }) ∧
    (∀ ch, i = .transact ch →
      step s = exec (.accept ch) { s with host := .awaiting :: rest } ∧
      ∀ n, s.st = .idle →
        n = (if s.answer = .fault then 1 else if s.takeReply.answer = .fault then 2 else 3) →
        runSteps (n + 2) s = exec i { s with host := rest }) ∧
    ((∃ ch, i = .encode ch) ∨ (∃ r1 r2 r3, i = .decode r1 r2 r3) →
      ∃ u, exec i { s with host := rest } = .next u ∧ step s = step u)

/-- A placed table word is what the very next step runs, and it completes: an operation of one step is exec of it at the
placed position, TRANSACT is the five steps of its frame from there, ENCODE and DECODE are evaluated in the step that
uses them. The placing is the model's choice (log 12). -/
def Obligations.APlacedWordRunsAtTheNextStep : Prop :=
  ∀ (s : State) (nbits w : Nat) (i : Instr), decodeTableWord nbits w = some i →
    (∃ t, step (s.withFetchWord nbits w) = .next t) ∧
    (stepKind i ≠ none → step (s.withFetchWord nbits w) = exec i (placeFor i s)) ∧
    (∀ ch, i = .transact ch →
      runSteps 5 (s.withFetchWord nbits w) = exec i (placeFor i s) ∧ ∃ t, exec i (placeFor i s) = .next t) ∧
    (∀ ch t, i = .encode ch → step (s.withFetchWord nbits w) = .next t →
      t.cmd = some (commandWord s.cfg (BitVec.ofNat 3 ch)) ∧
      t.codecOut = some (.command (commandWord s.cfg (BitVec.ofNat 3 ch)))) ∧
    (∀ r1 r2 r3 t, i = .decode r1 r2 r3 → step (s.withFetchWord nbits w) = .next t →
      t.sample = some (sampleOf (lowNibble r2) r3) ∧
      t.codecOut = some (.sample (sampleOf (lowNibble r2) r3)))

/-! ## TRANSACT -/

/-- TRANSACT (41_transaction R90, R99): from IDLE, on every channel 0 to 7, what the four courses of a frame leave (three
bytes, or a fault in exchange 1, 2 or 3) and exactly what they put on the wire. The three answers are those of the
three exchanges, listed or drawn. -/
def Obligations.TransactRunsOneFrame : Prop :=
  ∀ (s : State) (ch : Nat) (w : CommandWord), s.st = .idle → ch < 8 →
    w = s.cfg.cmdPrefix ||| (BitVec.ofNat 16 ch <<< 6) →
    (∀ r1 r2 r3, s.answer = .byte r1 → s.takeReply.answer = .byte r2 →
      s.takeReply.takeReply.answer = .byte r3 →
      exec (.transact ch) s = .next { s.takeReply.takeReply.takeReply with
        st := .idle, cmd := some w, hi := some (r2.extractLsb' 0 4), lo := some r3,
        sample := some (((r2.extractLsb' 0 4).setWidth 12 <<< 8) ||| r3.setWidth 12),
        status := some .ok, csN := 1#1,
        wire := s.wire ++ [.cs 0#1, .xchg (w.extractLsb' 8 8) (.byte r1), .xchg (w.extractLsb' 0 8) (.byte r2),
          .xchg 0x00#8 (.byte r3), .cs 1#1],
        received := s.received ++
          [⟨.ok, some (((r2.extractLsb' 0 4).setWidth 12 <<< 8) ||| r3.setWidth 12)⟩] }) ∧
    (s.answer = .fault →
      exec (.transact ch) s = .next { s.takeReply with
        st := .idle, cmd := some w, hi := none, lo := none, sample := none,
        status := some .transportFault, faultSeen := true, csN := 1#1,
        wire := s.wire ++ [.cs 0#1, .xchg (w.extractLsb' 8 8) .fault, .cs 1#1],
        received := s.received ++ [⟨.transportFault, none⟩] }) ∧
    (∀ r1, s.answer = .byte r1 → s.takeReply.answer = .fault →
      exec (.transact ch) s = .next { s.takeReply.takeReply with
        st := .idle, cmd := some w, hi := none, lo := none, sample := none,
        status := some .transportFault, faultSeen := true, csN := 1#1,
        wire := s.wire ++ [.cs 0#1, .xchg (w.extractLsb' 8 8) (.byte r1), .xchg (w.extractLsb' 0 8) .fault,
          .cs 1#1],
        received := s.received ++ [⟨.transportFault, none⟩] }) ∧
    (∀ r1 r2, s.answer = .byte r1 → s.takeReply.answer = .byte r2 →
      s.takeReply.takeReply.answer = .fault →
      exec (.transact ch) s = .next { s.takeReply.takeReply.takeReply with
        st := .idle, cmd := some w, hi := some (r2.extractLsb' 0 4), lo := none, sample := none,
        status := some .transportFault, faultSeen := true, csN := 1#1,
        wire := s.wire ++ [.cs 0#1, .xchg (w.extractLsb' 8 8) (.byte r1), .xchg (w.extractLsb' 0 8) (.byte r2),
          .xchg 0x00#8 .fault, .cs 1#1],
        received := s.received ++ [⟨.transportFault, none⟩] })

/-- TRANSACT always completes (41_transaction R95, 70_reset_and_hazards R153): from IDLE, on every channel 0 to 7 and
whatever the transport answers, it ends in IDLE with chip-select 1 and one more response taken. -/
def Obligations.TransactAlwaysCompletes : Prop :=
  ∀ (s : State) (ch : Nat), s.st = .idle → ch < 8 →
    ∃ t r, exec (.transact ch) s = .next t ∧ t.st = .idle ∧ t.csN = 1#1 ∧ t.received = s.received ++ [r]

/-- TRANSACT is the sequence of its atomic steps (41_transaction R90, R102): with the host's rows of READONE, one idle
row an exchange, the steps of the machine end where TRANSACT ends. Where an exchange fails, it is the last. That
exec of TRANSACT is the operation not cut by reset is the model's choice (log 6). -/
def Obligations.TransactIsTheSequenceOfItsSteps : Prop :=
  ∀ (s : State) (ch n : Nat) (rest : List HostRow), s.st = .idle → ch < 8 →
    n = (if s.answer = .fault then 1 else if s.takeReply.answer = .fault then 2 else 3) →
    runSteps (n + 2) { s with host := readOneRows ch n ++ rest } =
      exec (.transact ch) { s with host := rest }

/-- 41_transaction R101: the outcome of a TRANSACT depends on the draws alone: on two channels, with the same answers
to come, the host receives the same response. -/
def Obligations.ResultDoesNotDependOnTheChannel : Prop :=
  ∀ (s : State) (a b : Nat), s.st = .idle → a < 8 → b < 8 →
    ∃ t u, exec (.transact a) s = .next t ∧ exec (.transact b) s = .next u ∧
      t.received = u.received ∧ t.sample = u.sample ∧ t.status = u.status

/-! ## Outputs and encodings -/

/-- 10_state R30: the output functions. -/
def Obligations.OutputsAreTheirFunctions : Prop :=
  ∀ s : State,
    (reqReady s = true ↔ s.st = .idle) ∧ (rspValid s = true ↔ s.st = .done) ∧
    (s.st = .done → rspStatus s = s.status) ∧ (s.st ≠ .done → rspStatus s = none) ∧
    (s.st = .done → s.status = some .ok → rspSample s = s.sample) ∧
    (¬ (s.st = .done ∧ s.status = some .ok) → rspSample s = none) ∧
    csPort s = s.csN ∧
    (s.st = .x1 → xOut s = s.cmd.map (·.extractLsb' 8 8)) ∧
    (s.st = .x2 → xOut s = s.cmd.map (·.extractLsb' 0 8)) ∧
    (s.st = .x3 → xOut s = some 0x00#8) ∧
    (¬ frameOpen s.st → xOut s = none)

/-- 20_memory R46: the response ports give a value only in DONE, and then either the whole decoded sample with OK or the
fault status with no sample. -/
def Obligations.HostSeesAWholeSampleOrAFault : Prop :=
  ∀ s : State, Inv s →
    (s.st ≠ .done → rspStatus s = none ∧ rspSample s = none) ∧
    (s.st = .done →
      (rspStatus s = some .ok ∧ ∃ n b, s.hi = some n ∧ s.lo = some b ∧ rspSample s = some (sampleOf n b)) ∨
      (rspStatus s = some .transportFault ∧ rspSample s = none ∧ s.faultSeen = true))

/-- 30_encoding R70: the response on its ports. Only in DONE is there one: `rsp_status = 0` exactly where the status is OK,
with a sample; `rsp_status = 1` exactly where it is TRANSPORT_FAULT, with none; and raising `rsp_ready` takes it. -/
def Obligations.StatusIsCodedOnThePort : Prop :=
  ∀ s : State,
    (rspStatusPort s = some 0#1 ↔ s.st = .done ∧ s.status = some .ok) ∧
    (rspStatusPort s = some 1#1 ↔ s.st = .done ∧ s.status = some .transportFault) ∧
    (rspStatusPort s = some 1#1 → rspSample s = none) ∧
    (Inv s → rspStatusPort s = some 0#1 → ∃ v, rspSample s = some v) ∧
    (Inv s → s.st = .done → rspStatusPort s = some 0#1 ∨ rspStatusPort s = some 1#1) ∧
    (Inv s → s.st = .done → ∃ t r, stepOn ackLines s = .next t ∧ t.st = .idle ∧
      t.received = s.received ++ [r] ∧ rspStatusPort s = some (statusCode r.status) ∧ rspSample s = r.sample)

/-- 30_encoding R63, R64, R65: the sent bytes by position, for every channel and every legal prefix. -/
def Obligations.SentBytesFollowThePosition : Prop :=
  ∀ (s : State) (ch : Channel), s.cmd = some (commandWord s.cfg ch) →
    (s.st = .x1 → xOut s = some ((s.cfg.prefixTop.setWidth 8 <<< 1) ||| (ch.extractLsb' 2 1).setWidth 8)) ∧
    (s.st = .x2 → xOut s = some ((ch.extractLsb' 0 2).setWidth 8 <<< 6)) ∧
    (s.st = .x3 → xOut s = some 0x00#8) ∧
    (∀ b, s.cfg.prefixTop = 0b0000010#7 → s.st = .x1 → xOut s = some b → b &&& 0xFE#8 = 0x04#8)

/-- 10_state R21: the codes of `ST` are 0 to 4, read back as the positions they stand for; 5, 6 and 7 are none. -/
def Obligations.FramePositionCodes : Prop :=
  stCode .idle = 0#3 ∧ stCode .x1 = 1#3 ∧ stCode .x2 = 2#3 ∧ stCode .x3 = 3#3 ∧ stCode .done = 4#3 ∧
  (∀ p, stOfCode (stCode p) = some p) ∧ (∀ b : BitVec 3, stOfCode b = none ↔ 5#3 ≤ b)

/-- Decoding an encoded well-formed instruction gives it back, with every operand, in every block. -/
def Obligations.DecodeOfEncodeIsTheInstruction : Prop :=
  ∀ (c : Config) (i : Instr), i.wf = true → decode c (encode c i).format (encode c i).bits = .ok i

/-- The other direction: a word that decodes is the one encoding of what it decodes to, and that is well formed; so no
two words of a format stand for one instruction. -/
def Obligations.EachWordHasOneMeaning : Prop :=
  ∀ (c : Config) (f : Format) (w : Nat) (i : Instr), decode c f w = .ok i →
    i.wf = true ∧ encode c i = { format := f, bits := w }

/-- 30_encoding R62: the words of the spec's table decode to what they stand for, and near misses are rejected. -/
def Obligations.WordsOfTheTableDecode : Prop :=
  ∀ canFail : Bool,
    decode (Config.standard canFail) .cmd 0x05C0 = .ok (.encode 7) ∧
    decode (Config.standard canFail) .cmd 0x0640 = .rejected .fixedBits ∧
    decode (Config.standard canFail) .tx1 0x05 = .ok (.xchg1 1#1) ∧
    decode (Config.standard canFail) .tx1 0x07 = .rejected .fixedBits ∧
    decode (Config.standard canFail) .tx2 0xC0 = .ok (.xchg2 3#2) ∧
    decode (Config.standard canFail) .tx2 0x01 = .rejected .fixedBits ∧
    decode (Config.standard canFail) .tx3 0x00 = .ok .xchg3 ∧
    decode (Config.standard canFail) .hreqAccept 7 = .ok (.accept 7) ∧
    decode (Config.standard canFail) .hreqTransact 8 = .rejected (.invalidChannel 8) ∧
    decode (Config.standard canFail) .hack 1 = .ok .ack ∧
    decode (Config.standard canFail) .rst 1 = .ok .reset ∧
    decode (Config.standard canFail) .rspFault 1 = .ok .faultEntry ∧
    decode (Config.standard canFail) .rspFrame 0xFFE721 = .ok (.decode 0xFF#8 0xE7#8 0x21#8)

/-! ## The host's programs and bursts -/

/-- The host notation (30_encoding R72) and the end of a run (41_transaction R103): REQ presents its request until it is
accepted, ACK waits for `rsp_valid`, reads the ports and raises `rsp_ready`, RESET is taken at once; while an exchange
is pending they hold and the frame goes on; a REQ in DONE and an ACK in IDLE wait on a quiescent block; a run ends when
the program is issued and the block stands in IDLE, or in DONE with a response never taken. The turns and the pause are
the model's choice (log 18). -/
def Obligations.HostOperationsHoldUntilTaken : Prop :=
  ∀ (n : Nat) (ops : List HostOp) (reads : List HostRead) (s : State),
    (∀ ch t, exec (.accept ch) s = .next t →
      runHost (n + 1) (.req ch :: ops) reads s = runHost n ops reads t) ∧
    (∀ ch, s.st = .idle → 8 ≤ ch → runHost (n + 1) (.req ch :: ops) reads s = .refused (.invalidChannel ch)) ∧
    (∀ ch, s.st = .done → runHost (n + 1) (.req ch :: ops) reads s = .waits (.req ch :: ops) reads s) ∧
    (∀ t, exec .ack s = .next t → ∃ c, rspStatusPort s = some c ∧
      runHost (n + 1) (.ack :: ops) reads s = runHost n ops (reads ++ [{ s := c, v := rspSample s }]) t) ∧
    (s.st = .idle → runHost (n + 1) (.ack :: ops) reads s = .waits (.ack :: ops) reads s) ∧
    (∀ t, exec .reset s = .next t → runHost (n + 1) (.reset :: ops) reads s = runHost n ops reads t) ∧
    (Inv s → frameOpen s.st → ∃ t, stepOn idleLines s = .next t ∧
      (∀ ch, runHost (n + 1) (.req ch :: ops) reads s = runHost n (.req ch :: ops) reads t) ∧
      runHost (n + 1) (.ack :: ops) reads s = runHost n (.ack :: ops) reads t ∧
      runHost (n + 1) (.pause :: ops) reads s = runHost n ops reads t ∧
      runHost (n + 1) [] reads s = runHost n [] reads t) ∧
    (¬ frameOpen s.st → runHost (n + 1) (.pause :: ops) reads s = runHost n ops reads s) ∧
    (s.st = .idle → runHost (n + 1) [] reads s = .ended reads s) ∧
    (s.st = .done → runHost (n + 1) [] reads s = .untaken reads s)

/-- A program of READONEs (30_encoding R72, R73), on any channels 0 to 7 from IDLE and whatever the transport answers,
ends where its TRANSACTs end, one after another, and its ACKs read one response each, in order (20_memory R48). A frame
is at most five turns (41_transaction R90, R95). exec of TRANSACT as one operation and the turns are the model's
choice (log 6, log 18). -/
def Obligations.ReadProgramsRunTheirTransacts : Prop :=
  ∀ (chs : List Nat) (s : State) (n : Nat), s.st = .idle → (∀ ch ∈ chs, ch < 8) → 5 * chs.length < n →
    ∃ (rs : List Response) (t : State),
      transactAll chs s = .next t ∧ runHost n (readProgram chs) [] s = .ended (rs.map Response.asRead) t ∧
      t.st = .idle ∧ t.received = s.received ++ rs ∧ rs.length = chs.length

/-- READMANY (30_encoding R73): it returns exactly `n` samples, in the order the host took them. -/
def Obligations.ReadManyReturnsItsCountInOrder : Prop :=
  ∀ (ch n : Nat) (s t : State) (vs : List Sample), readMany ch n s = .samples vs t →
    vs.length = n ∧ t.received = s.received ++ vs.map (fun v => (⟨.ok, some v⟩ : Response))

/-- READMANY completes from IDLE on every channel (30_encoding R73, 60_exceptions R125): with a transport that cannot
fail it always returns samples; with any transport it returns samples or the first Transport-Fault. -/
def Obligations.ReadManyCompletes : Prop :=
  ∀ (ch n : Nat) (s : State), s.st = .idle → ch < 8 →
    (s.cfg.transportCanFail = false → ∃ vs t, readMany ch n s = .samples vs t ∧ t.st = .idle) ∧
    ((∃ vs t, readMany ch n s = .samples vs t ∧ t.st = .idle) ∨
      (∃ (t : State) (vs : List Sample), readMany ch n s = .transportFault t ∧ t.st = .idle ∧ vs.length < n ∧
        t.received = s.received ++ vs.map (fun v => (⟨.ok, some v⟩ : Response)) ++ [⟨.transportFault, none⟩]))

/-- READMANYUNTIL (30_encoding R73): where it returns samples, the block was transacted on until one result met the
predicate; that one, and those before it, are not returned, and exactly `n` samples follow, in order. A fault ends it. -/
def Obligations.ReadManyUntilDiscardsTheTrigger : Prop :=
  ∀ (ch n : Nat) (p : Sample → Bool) (fuel : Nat) (s t : State),
    (∀ vs, readManyUntil ch n p fuel s = some (.samples vs t) →
      vs.length = n ∧ ∃ (pre : List Sample) (trigger : Sample), (∀ v ∈ pre, p v = false) ∧ p trigger = true ∧
        t.received = s.received ++ (pre ++ trigger :: vs).map (fun v => (⟨.ok, some v⟩ : Response))) ∧
    (readManyUntil ch n p fuel s = some (.transportFault t) →
      ∃ vs : List Sample, t.received =
        s.received ++ vs.map (fun v => (⟨.ok, some v⟩ : Response)) ++ [⟨.transportFault, none⟩])

/-- READMANYUNTIL completes from IDLE on every channel (30_encoding R73): it answers none only where that many frames all
gave samples that miss the predicate, and else samples or a Transport-Fault; with a transport that cannot fail (60_exceptions
R125) and a first result that meets the predicate it returns samples. The bound on the loop is the model's choice
(log 16). -/
def Obligations.ReadManyUntilCompletes : Prop :=
  ∀ (ch n : Nat) (p : Sample → Bool) (fuel : Nat) (s : State), s.st = .idle → ch < 8 →
    (readManyUntil ch n p fuel s = none →
      ∃ vs t, readMany ch fuel s = .samples vs t ∧ ∀ v ∈ vs, p v = false) ∧
    (readManyUntil ch n p fuel s ≠ none → ∃ t : State, t.st = .idle ∧
      ((∃ vs, readManyUntil ch n p fuel s = some (.samples vs t)) ∨
        (s.cfg.transportCanFail = true ∧ readManyUntil ch n p fuel s = some (.transportFault t)))) ∧
    (∀ v t, s.cfg.transportCanFail = false → 0 < fuel → readOne ch s = .samples [v] t → p v = true →
      ∃ vs u, readManyUntil ch n p fuel s = some (.samples vs u) ∧ readMany ch n t = .samples vs u)
end

