-- ==== Sys2Proof/Laws/State.lean ====
section
/-! SUPPORT. What each update of the state does to each field: true by definition, for simp. -/

namespace Sys2Proof.Machine

variable (s : State)

/-! ### driveCs -/

@[simp] theorem State.driveCs_st (v : BitVec 1) : (State.driveCs v s).st = s.st := rfl
@[simp] theorem State.driveCs_cmd (v : BitVec 1) : (State.driveCs v s).cmd = s.cmd := rfl
@[simp] theorem State.driveCs_hi (v : BitVec 1) : (State.driveCs v s).hi = s.hi := rfl
@[simp] theorem State.driveCs_lo (v : BitVec 1) : (State.driveCs v s).lo = s.lo := rfl
@[simp] theorem State.driveCs_sample (v : BitVec 1) : (State.driveCs v s).sample = s.sample := rfl
@[simp] theorem State.driveCs_status (v : BitVec 1) : (State.driveCs v s).status = s.status := rfl
@[simp] theorem State.driveCs_csN (v : BitVec 1) : (State.driveCs v s).csN = v := rfl
@[simp] theorem State.driveCs_faultSeen (v : BitVec 1) : (State.driveCs v s).faultSeen = s.faultSeen := rfl
@[simp] theorem State.driveCs_cfg (v : BitVec 1) : (State.driveCs v s).cfg = s.cfg := rfl
@[simp] theorem State.driveCs_host (v : BitVec 1) : (State.driveCs v s).host = s.host := rfl
@[simp] theorem State.driveCs_replies (v : BitVec 1) : (State.driveCs v s).replies = s.replies := rfl
@[simp] theorem State.driveCs_draws (v : BitVec 1) : (State.driveCs v s).draws = s.draws := rfl
@[simp] theorem State.driveCs_wire (v : BitVec 1) : (State.driveCs v s).wire = s.wire ++ [.cs v] := rfl
@[simp] theorem State.driveCs_received (v : BitVec 1) : (State.driveCs v s).received = s.received := rfl
@[simp] theorem State.driveCs_codecOut (v : BitVec 1) : (State.driveCs v s).codecOut = s.codecOut := rfl

/-! ### clearStatus -/

@[simp] theorem State.clearStatus_st : (s.clearStatus).st = s.st := rfl
@[simp] theorem State.clearStatus_cmd : (s.clearStatus).cmd = s.cmd := rfl
@[simp] theorem State.clearStatus_hi : (s.clearStatus).hi = s.hi := rfl
@[simp] theorem State.clearStatus_lo : (s.clearStatus).lo = s.lo := rfl
@[simp] theorem State.clearStatus_sample : (s.clearStatus).sample = s.sample := rfl
@[simp] theorem State.clearStatus_status : (s.clearStatus).status = none := rfl
@[simp] theorem State.clearStatus_csN : (s.clearStatus).csN = s.csN := rfl
@[simp] theorem State.clearStatus_faultSeen : (s.clearStatus).faultSeen = s.faultSeen := rfl
@[simp] theorem State.clearStatus_cfg : (s.clearStatus).cfg = s.cfg := rfl
@[simp] theorem State.clearStatus_host : (s.clearStatus).host = s.host := rfl
@[simp] theorem State.clearStatus_replies : (s.clearStatus).replies = s.replies := rfl
@[simp] theorem State.clearStatus_draws : (s.clearStatus).draws = s.draws := rfl
@[simp] theorem State.clearStatus_wire : (s.clearStatus).wire = s.wire := rfl
@[simp] theorem State.clearStatus_received : (s.clearStatus).received = s.received := rfl
@[simp] theorem State.clearStatus_codecOut : (s.clearStatus).codecOut = s.codecOut := rfl

/-! ### statusOk -/

@[simp] theorem State.statusOk_st : (s.statusOk).st = s.st := rfl
@[simp] theorem State.statusOk_cmd : (s.statusOk).cmd = s.cmd := rfl
@[simp] theorem State.statusOk_hi : (s.statusOk).hi = s.hi := rfl
@[simp] theorem State.statusOk_lo : (s.statusOk).lo = s.lo := rfl
@[simp] theorem State.statusOk_sample : (s.statusOk).sample = s.sample := rfl
@[simp] theorem State.statusOk_status : (s.statusOk).status = some .ok := rfl
@[simp] theorem State.statusOk_csN : (s.statusOk).csN = s.csN := rfl
@[simp] theorem State.statusOk_faultSeen : (s.statusOk).faultSeen = s.faultSeen := rfl
@[simp] theorem State.statusOk_cfg : (s.statusOk).cfg = s.cfg := rfl
@[simp] theorem State.statusOk_host : (s.statusOk).host = s.host := rfl
@[simp] theorem State.statusOk_replies : (s.statusOk).replies = s.replies := rfl
@[simp] theorem State.statusOk_draws : (s.statusOk).draws = s.draws := rfl
@[simp] theorem State.statusOk_wire : (s.statusOk).wire = s.wire := rfl
@[simp] theorem State.statusOk_received : (s.statusOk).received = s.received := rfl
@[simp] theorem State.statusOk_codecOut : (s.statusOk).codecOut = s.codecOut := rfl

/-! ### statusFault -/

@[simp] theorem State.statusFault_st : (s.statusFault).st = s.st := rfl
@[simp] theorem State.statusFault_cmd : (s.statusFault).cmd = s.cmd := rfl
@[simp] theorem State.statusFault_hi : (s.statusFault).hi = s.hi := rfl
@[simp] theorem State.statusFault_lo : (s.statusFault).lo = s.lo := rfl
@[simp] theorem State.statusFault_sample : (s.statusFault).sample = s.sample := rfl
@[simp] theorem State.statusFault_status : (s.statusFault).status = some .transportFault := rfl
@[simp] theorem State.statusFault_csN : (s.statusFault).csN = s.csN := rfl
@[simp] theorem State.statusFault_faultSeen : (s.statusFault).faultSeen = true := rfl
@[simp] theorem State.statusFault_cfg : (s.statusFault).cfg = s.cfg := rfl
@[simp] theorem State.statusFault_host : (s.statusFault).host = s.host := rfl
@[simp] theorem State.statusFault_replies : (s.statusFault).replies = s.replies := rfl
@[simp] theorem State.statusFault_draws : (s.statusFault).draws = s.draws := rfl
@[simp] theorem State.statusFault_wire : (s.statusFault).wire = s.wire := rfl
@[simp] theorem State.statusFault_received : (s.statusFault).received = s.received := rfl
@[simp] theorem State.statusFault_codecOut : (s.statusFault).codecOut = s.codecOut := rfl

/-! ### clearFlags -/

@[simp] theorem State.clearFlags_st : (s.clearFlags).st = s.st := rfl
@[simp] theorem State.clearFlags_cmd : (s.clearFlags).cmd = s.cmd := rfl
@[simp] theorem State.clearFlags_hi : (s.clearFlags).hi = s.hi := rfl
@[simp] theorem State.clearFlags_lo : (s.clearFlags).lo = s.lo := rfl
@[simp] theorem State.clearFlags_sample : (s.clearFlags).sample = s.sample := rfl
@[simp] theorem State.clearFlags_status : (s.clearFlags).status = none := rfl
@[simp] theorem State.clearFlags_csN : (s.clearFlags).csN = s.csN := rfl
@[simp] theorem State.clearFlags_faultSeen : (s.clearFlags).faultSeen = false := rfl
@[simp] theorem State.clearFlags_cfg : (s.clearFlags).cfg = s.cfg := rfl
@[simp] theorem State.clearFlags_host : (s.clearFlags).host = s.host := rfl
@[simp] theorem State.clearFlags_replies : (s.clearFlags).replies = s.replies := rfl
@[simp] theorem State.clearFlags_draws : (s.clearFlags).draws = s.draws := rfl
@[simp] theorem State.clearFlags_wire : (s.clearFlags).wire = s.wire := rfl
@[simp] theorem State.clearFlags_received : (s.clearFlags).received = s.received := rfl
@[simp] theorem State.clearFlags_codecOut : (s.clearFlags).codecOut = s.codecOut := rfl

/-! ### raiseTransportFault -/

@[simp] theorem State.raiseTransportFault_st : (s.raiseTransportFault).st = .done := rfl
@[simp] theorem State.raiseTransportFault_cmd : (s.raiseTransportFault).cmd = s.cmd := rfl
@[simp] theorem State.raiseTransportFault_hi : (s.raiseTransportFault).hi = s.hi := rfl
@[simp] theorem State.raiseTransportFault_lo : (s.raiseTransportFault).lo = s.lo := rfl
@[simp] theorem State.raiseTransportFault_sample : (s.raiseTransportFault).sample = none := rfl
@[simp] theorem State.raiseTransportFault_status : (s.raiseTransportFault).status = some .transportFault := rfl
@[simp] theorem State.raiseTransportFault_csN : (s.raiseTransportFault).csN = 1#1 := rfl
@[simp] theorem State.raiseTransportFault_faultSeen : (s.raiseTransportFault).faultSeen = true := rfl
@[simp] theorem State.raiseTransportFault_cfg : (s.raiseTransportFault).cfg = s.cfg := rfl
@[simp] theorem State.raiseTransportFault_host : (s.raiseTransportFault).host = s.host := rfl
@[simp] theorem State.raiseTransportFault_replies : (s.raiseTransportFault).replies = s.replies := rfl
@[simp] theorem State.raiseTransportFault_draws : (s.raiseTransportFault).draws = s.draws := rfl
@[simp] theorem State.raiseTransportFault_wire : (s.raiseTransportFault).wire = s.wire ++ [.cs 1#1] := rfl
@[simp] theorem State.raiseTransportFault_received : (s.raiseTransportFault).received = s.received := rfl
@[simp] theorem State.raiseTransportFault_codecOut : (s.raiseTransportFault).codecOut = s.codecOut := rfl

/-! ### openFrame -/

@[simp] theorem State.openFrame_st (ch : Channel) : (State.openFrame ch s).st = .x1 := rfl
@[simp] theorem State.openFrame_cmd (ch : Channel) : (State.openFrame ch s).cmd = some (commandWord s.cfg ch) := rfl
@[simp] theorem State.openFrame_hi (ch : Channel) : (State.openFrame ch s).hi = none := rfl
@[simp] theorem State.openFrame_lo (ch : Channel) : (State.openFrame ch s).lo = none := rfl
@[simp] theorem State.openFrame_sample (ch : Channel) : (State.openFrame ch s).sample = none := rfl
@[simp] theorem State.openFrame_status (ch : Channel) : (State.openFrame ch s).status = none := rfl
@[simp] theorem State.openFrame_csN (ch : Channel) : (State.openFrame ch s).csN = 0#1 := rfl
@[simp] theorem State.openFrame_faultSeen (ch : Channel) : (State.openFrame ch s).faultSeen = s.faultSeen := rfl
@[simp] theorem State.openFrame_cfg (ch : Channel) : (State.openFrame ch s).cfg = s.cfg := rfl
@[simp] theorem State.openFrame_host (ch : Channel) : (State.openFrame ch s).host = s.host := rfl
@[simp] theorem State.openFrame_replies (ch : Channel) : (State.openFrame ch s).replies = s.replies := rfl
@[simp] theorem State.openFrame_draws (ch : Channel) : (State.openFrame ch s).draws = s.draws := rfl
@[simp] theorem State.openFrame_wire (ch : Channel) : (State.openFrame ch s).wire = s.wire ++ [.cs 0#1] := rfl
@[simp] theorem State.openFrame_received (ch : Channel) : (State.openFrame ch s).received = s.received := rfl
@[simp] theorem State.openFrame_codecOut (ch : Channel) : (State.openFrame ch s).codecOut = s.codecOut := rfl

/-! ### closeFrame -/

@[simp] theorem State.closeFrame_st (n : Nibble) (b : Byte) : (State.closeFrame n b s).st = .done := rfl
@[simp] theorem State.closeFrame_cmd (n : Nibble) (b : Byte) : (State.closeFrame n b s).cmd = s.cmd := rfl
@[simp] theorem State.closeFrame_hi (n : Nibble) (b : Byte) : (State.closeFrame n b s).hi = s.hi := rfl
@[simp] theorem State.closeFrame_lo (n : Nibble) (b : Byte) : (State.closeFrame n b s).lo = some b := rfl
@[simp] theorem State.closeFrame_sample (n : Nibble) (b : Byte) : (State.closeFrame n b s).sample = some (sampleOf n b) := rfl
@[simp] theorem State.closeFrame_status (n : Nibble) (b : Byte) : (State.closeFrame n b s).status = some .ok := rfl
@[simp] theorem State.closeFrame_csN (n : Nibble) (b : Byte) : (State.closeFrame n b s).csN = 1#1 := rfl
@[simp] theorem State.closeFrame_faultSeen (n : Nibble) (b : Byte) : (State.closeFrame n b s).faultSeen = s.faultSeen := rfl
@[simp] theorem State.closeFrame_cfg (n : Nibble) (b : Byte) : (State.closeFrame n b s).cfg = s.cfg := rfl
@[simp] theorem State.closeFrame_host (n : Nibble) (b : Byte) : (State.closeFrame n b s).host = s.host := rfl
@[simp] theorem State.closeFrame_replies (n : Nibble) (b : Byte) : (State.closeFrame n b s).replies = s.replies := rfl
@[simp] theorem State.closeFrame_draws (n : Nibble) (b : Byte) : (State.closeFrame n b s).draws = s.draws := rfl
@[simp] theorem State.closeFrame_wire (n : Nibble) (b : Byte) : (State.closeFrame n b s).wire = s.wire ++ [.cs 1#1] := rfl
@[simp] theorem State.closeFrame_received (n : Nibble) (b : Byte) : (State.closeFrame n b s).received = s.received := rfl
@[simp] theorem State.closeFrame_codecOut (n : Nibble) (b : Byte) : (State.closeFrame n b s).codecOut = s.codecOut := rfl

/-! ### resetBlock -/

@[simp] theorem State.resetBlock_st : (s.resetBlock).st = .idle := rfl
@[simp] theorem State.resetBlock_cmd : (s.resetBlock).cmd = none := rfl
@[simp] theorem State.resetBlock_hi : (s.resetBlock).hi = none := rfl
@[simp] theorem State.resetBlock_lo : (s.resetBlock).lo = none := rfl
@[simp] theorem State.resetBlock_sample : (s.resetBlock).sample = none := rfl
@[simp] theorem State.resetBlock_status : (s.resetBlock).status = none := rfl
@[simp] theorem State.resetBlock_csN : (s.resetBlock).csN = 1#1 := rfl
@[simp] theorem State.resetBlock_faultSeen : (s.resetBlock).faultSeen = false := rfl
@[simp] theorem State.resetBlock_cfg : (s.resetBlock).cfg = s.cfg := rfl
@[simp] theorem State.resetBlock_host : (s.resetBlock).host = s.host := rfl
@[simp] theorem State.resetBlock_replies : (s.resetBlock).replies = s.replies := rfl
@[simp] theorem State.resetBlock_draws : (s.resetBlock).draws = s.draws := rfl
@[simp] theorem State.resetBlock_wire : (s.resetBlock).wire = s.wire ++ [.cs 1#1] := rfl
@[simp] theorem State.resetBlock_received : (s.resetBlock).received = s.received := rfl
@[simp] theorem State.resetBlock_codecOut : (s.resetBlock).codecOut = s.codecOut := rfl

/-! ### takeReply and exchange -/

@[simp] theorem State.takeReply_st : s.takeReply.st = s.st := by
  unfold State.takeReply; split <;> rfl
@[simp] theorem State.takeReply_cmd : s.takeReply.cmd = s.cmd := by
  unfold State.takeReply; split <;> rfl
@[simp] theorem State.takeReply_hi : s.takeReply.hi = s.hi := by
  unfold State.takeReply; split <;> rfl
@[simp] theorem State.takeReply_lo : s.takeReply.lo = s.lo := by
  unfold State.takeReply; split <;> rfl
@[simp] theorem State.takeReply_sample : s.takeReply.sample = s.sample := by
  unfold State.takeReply; split <;> rfl
@[simp] theorem State.takeReply_status : s.takeReply.status = s.status := by
  unfold State.takeReply; split <;> rfl
@[simp] theorem State.takeReply_csN : s.takeReply.csN = s.csN := by
  unfold State.takeReply; split <;> rfl
@[simp] theorem State.takeReply_faultSeen : s.takeReply.faultSeen = s.faultSeen := by
  unfold State.takeReply; split <;> rfl
@[simp] theorem State.takeReply_cfg : s.takeReply.cfg = s.cfg := by
  unfold State.takeReply; split <;> rfl
@[simp] theorem State.takeReply_host : s.takeReply.host = s.host := by
  unfold State.takeReply; split <;> rfl
@[simp] theorem State.takeReply_wire : s.takeReply.wire = s.wire := by
  unfold State.takeReply; split <;> rfl
@[simp] theorem State.takeReply_received : s.takeReply.received = s.received := by
  unfold State.takeReply; split <;> rfl
@[simp] theorem State.takeReply_codecOut : s.takeReply.codecOut = s.codecOut := by
  unfold State.takeReply; split <;> rfl

@[simp] theorem State.takeReply_replies : s.takeReply.replies = s.replies.tail := by
  unfold State.takeReply; split <;> simp [*]

@[simp] theorem State.exchange_st (b : Byte) : (State.exchange b s).st = s.st := s.takeReply_st
@[simp] theorem State.exchange_cmd (b : Byte) : (State.exchange b s).cmd = s.cmd := s.takeReply_cmd
@[simp] theorem State.exchange_hi (b : Byte) : (State.exchange b s).hi = s.hi := s.takeReply_hi
@[simp] theorem State.exchange_lo (b : Byte) : (State.exchange b s).lo = s.lo := s.takeReply_lo
@[simp] theorem State.exchange_sample (b : Byte) : (State.exchange b s).sample = s.sample := s.takeReply_sample
@[simp] theorem State.exchange_status (b : Byte) : (State.exchange b s).status = s.status := s.takeReply_status
@[simp] theorem State.exchange_csN (b : Byte) : (State.exchange b s).csN = s.csN := s.takeReply_csN
@[simp] theorem State.exchange_faultSeen (b : Byte) : (State.exchange b s).faultSeen = s.faultSeen := s.takeReply_faultSeen
@[simp] theorem State.exchange_cfg (b : Byte) : (State.exchange b s).cfg = s.cfg := s.takeReply_cfg
@[simp] theorem State.exchange_host (b : Byte) : (State.exchange b s).host = s.host := s.takeReply_host
@[simp] theorem State.exchange_replies (b : Byte) : (State.exchange b s).replies = s.takeReply.replies := rfl
@[simp] theorem State.exchange_draws (b : Byte) : (State.exchange b s).draws = s.takeReply.draws := rfl
@[simp] theorem State.exchange_wire (b : Byte) : (State.exchange b s).wire = s.wire ++ [.xchg b s.answer] := rfl
@[simp] theorem State.exchange_received (b : Byte) : (State.exchange b s).received = s.received := s.takeReply_received
@[simp] theorem State.exchange_codecOut (b : Byte) : (State.exchange b s).codecOut = s.codecOut := s.takeReply_codecOut

end Sys2Proof.Machine
end

