-- ==== Sys2Proof/Laws/Ops.lean ====
section
/-! SUPPORT. One lemma per shared operation: everything it can answer. -/

namespace Sys2Proof.Machine

/-- The answer of an exchange is that of the next reply; it reads the parameters, the listed answers and the draw
counter alone. -/
theorem answer_congr {s t : State} (hc : t.cfg = s.cfg) (hr : t.replies = s.replies) (hd : t.draws = s.draws) :
    t.answer = s.answer := by
  unfold State.answer State.nextReply
  rw [hc, hr, hd]

/-- A transport that cannot fail answers with a byte (00_scope R6). -/
theorem answer_of_cannot_fail {s : State} (h : s.cfg.transportCanFail = false) :
    s.answer = .byte s.nextReply.xIn := by
  simp [State.answer, Reply.answer, h]

/-- `takeReply` reads the listed answers and the draw counter alone. -/
theorem takeReply_congr {s t : State} (hr : t.replies = s.replies) (hd : t.draws = s.draws) :
    t.takeReply.replies = s.takeReply.replies ∧ t.takeReply.draws = s.takeReply.draws := by
  unfold State.takeReply
  rw [hr]
  split <;> simp [hd]

/-- A channel number below 8 is the channel with that value. -/
theorem channelOf_eq_some {n : Nat} {c : Channel} : channelOf n = some c ↔ n < 8 ∧ c = BitVec.ofNat 3 n := by
  unfold channelOf
  split <;> simp_all [eq_comm]

theorem channelOf_eq_none {n : Nat} : channelOf n = none ↔ 8 ≤ n := by
  unfold channelOf
  split
  · simp; omega
  · simp; omega

/-- Encoding a channel given as a number. -/
theorem commandWord_ofNat (c : Config) {n : Nat} (h : n < 8) :
    commandWord c (BitVec.ofNat 3 n) = c.cmdPrefix ||| (BitVec.ofNat 16 n <<< 6) := by
  unfold commandWord
  congr 2
  apply BitVec.eq_of_toNat_eq
  simp only [BitVec.toNat_setWidth, BitVec.toNat_ofNat]
  omega

/-- Everything exchange 1 can answer (41_transaction R92). -/
theorem exchange1_next {s t : State} (h : exchange1 s = .next t) :
    ∃ w, s.cmd = some w ∧
      ((s.answer = .fault ∧ t = (s.exchange (cmdHigh w)).raiseTransportFault) ∨
        (∃ b, s.answer = .byte b ∧ t = { s.exchange (cmdHigh w) with st := .x2 })) := by
  unfold exchange1 at h
  split at h
  · cases h
  · rename_i w hw
    refine ⟨w, hw, ?_⟩
    split at h <;> cases h <;> simp_all

/-- Everything exchange 2 can answer (R93). -/
theorem exchange2_next {s t : State} (h : exchange2 s = .next t) :
    ∃ w, s.cmd = some w ∧
      ((s.answer = .fault ∧ t = (s.exchange (cmdLow w)).raiseTransportFault) ∨
        (∃ b, s.answer = .byte b ∧
          t = { s.exchange (cmdLow w) with hi := some (lowNibble b), st := .x3 })) := by
  unfold exchange2 at h
  split at h
  · cases h
  · rename_i w hw
    refine ⟨w, hw, ?_⟩
    split at h <;> cases h <;> simp_all

/-- Everything exchange 3 can answer (R94). -/
theorem exchange3_next {s t : State} (h : exchange3 s = .next t) :
    (s.answer = .fault ∧ t = (s.exchange filler).raiseTransportFault) ∨
      (∃ b n, s.answer = .byte b ∧ s.hi = some n ∧ t = (s.exchange filler).closeFrame n b) := by
  unfold exchange3 at h
  split at h
  · cases h; simp_all
  · split at h
    · cases h
    · cases h; simp_all

/-- Everything ACK's operation can answer (R96). -/
theorem acknowledge_next {s t : State} (h : acknowledge s = .next t) :
    ∃ r, responseOf s = .ok r ∧ t = { s with st := .idle, received := s.received ++ [r] } := by
  unfold acknowledge at h
  split at h <;> cases h
  exact ⟨_, by assumption, rfl⟩

/-- A response is the status with the sample of a good frame, or a fault without one. -/
theorem responseOf_ok {s : State} {r : Response} (h : responseOf s = .ok r) :
    (s.status = some .ok ∧ ∃ v, s.sample = some v ∧ r = ⟨.ok, some v⟩) ∨
      (s.status = some .transportFault ∧ r = ⟨.transportFault, none⟩) := by
  unfold responseOf at h
  split at h
  · cases h
  · cases h; simp_all
  · split at h <;> cases h; simp_all

theorem andThen_next {o : Result} {f : State → Result} {t : State} (h : andThen o f = .next t) :
    ∃ u, o = .next u ∧ f u = .next t := by
  unfold andThen at h
  split at h
  · exact ⟨_, rfl, h⟩
  · cases h
  · cases h

theorem whileAt_next {p : FrameState} {f : State → Result} {s t : State} (h : whileAt p f s = .next t) :
    (s.st = p ∧ f s = .next t) ∨ (s.st ≠ p ∧ t = s) := by
  unfold whileAt at h
  split at h
  · exact .inl ⟨by assumption, h⟩
  · cases h; exact .inr ⟨by assumption, rfl⟩

/-- Everything ACCEPT can answer (R91). -/
theorem execAccept_next {n : Nat} {s t : State} (h : execAccept n s = .next t) :
    s.st = .idle ∧ ∃ c, channelOf n = some c ∧ t = s.openFrame c := by
  unfold execAccept at h
  split at h
  · split at h <;> cases h
    exact ⟨by assumption, _, by assumption, rfl⟩
  · cases h

/-- Where XCHG1 has a next state, it is that of exchange 1 in X1. -/
theorem execXchg1_next {c : BitVec 1} {s t : State} (h : execXchg1 c s = .next t) :
    s.st = .x1 ∧ exchange1 s = .next t := by
  unfold execXchg1 at h
  split at h
  · split at h
    · exact ⟨by assumption, h⟩
    · cases h
  · cases h

/-- Where XCHG2 has a next state, it is that of exchange 2 in X2. -/
theorem execXchg2_next {c : BitVec 2} {s t : State} (h : execXchg2 c s = .next t) :
    s.st = .x2 ∧ exchange2 s = .next t := by
  unfold execXchg2 at h
  split at h
  · split at h
    · exact ⟨by assumption, h⟩
    · cases h
  · cases h

/-- Where XCHG3 has a next state, it is that of exchange 3 in X3. -/
theorem execXchg3_next {s t : State} (h : execXchg3 s = .next t) : s.st = .x3 ∧ exchange3 s = .next t := by
  unfold execXchg3 at h
  split at h
  · exact ⟨by assumption, h⟩
  · cases h

/-- Where ACK has a next state, it is that of its operation in DONE. -/
theorem execAck_next {s t : State} (h : execAck s = .next t) : s.st = .done ∧ acknowledge s = .next t := by
  unfold execAck at h
  split at h
  · exact ⟨by assumption, h⟩
  · cases h

/-- Everything FAULT_ENTRY can answer (60_exceptions R121). -/
theorem execFaultEntry_next {s t : State} (h : execFaultEntry s = .next t) :
    ∃ b, xOut s = some b ∧ s.answer = .fault ∧ t = (s.exchange b).raiseTransportFault := by
  unfold execFaultEntry at h
  split at h
  · cases h
  · cases h
  all_goals
    split at h
    · cases h
    · split at h <;> cases h
      exact ⟨_, by assumption, by assumption, rfl⟩

/-- Everything TRANSACT can answer (41_transaction R90): its five lines, each from the state the one before it left. -/
theorem execTransact_next {n : Nat} {s t : State} (h : execTransact n s = .next t) :
    ∃ c s2 s3 s4, s.st = .idle ∧ channelOf n = some c ∧ exchange1 (s.openFrame c) = .next s2 ∧
      whileAt .x2 exchange2 s2 = .next s3 ∧ whileAt .x3 exchange3 s3 = .next s4 ∧ acknowledge s4 = .next t := by
  unfold execTransact at h
  split at h
  · split at h
    · cases h
    · obtain ⟨s2, h2, h⟩ := andThen_next h
      obtain ⟨s3, h3, h⟩ := andThen_next h
      obtain ⟨s4, h4, h⟩ := andThen_next h
      exact ⟨_, s2, s3, s4, by assumption, by assumption, h2, h3, h4, h⟩
  · cases h

/-- Running what was selected has a next state only where an operation was. -/
theorem runFetched_next {f : Fetched} {s t : State} (h : runFetched f s = .next t) :
    ∃ i, f = .run i ∧ exec i s = .next t := by
  cases f with
  | run i => exact ⟨i, rfl, h⟩
  | fault r => cases h
  | refused r => cases h

/-- Rows make the same step whatever rows the state itself lists. -/
theorem stepRows_host (rows r : List HostRow) (s : State) : stepRows rows { s with host := r } = stepRows rows s := by
  induction rows generalizing s with
  | nil => rfl
  | cons row rest ih =>
    cases row with
    | lines l => rfl
    | awaiting => rfl
    | word w =>
      have hf : fetchWord w { s with host := r } = fetchWord w s := rfl
      simp only [stepRows]
      rw [hf]
      cases fetchWord w s with
      | fault e => rfl
      | refused e => rfl
      | run i =>
        cases i with
        | encode ch =>
          simp only [wordStep, exec, execEncode]
          cases channelOf ch with
          | none => rfl
          | some c => exact ih { s with codecOut := some (.command (commandWord s.cfg c)) }
        | decode r1 r2 r3 => exact ih { s with codecOut := some (.sample (sampleOf (lowNibble r2) r3)) }
        | transact ch => rfl
        | accept ch => rfl
        | xchg1 c => rfl
        | xchg2 cc => rfl
        | xchg3 => rfl
        | ack => rfl
        | faultEntry => rfl
        | reset => rfl

/-- On a row of lines the step is the block's own (41_transaction R102). -/
theorem step_of_lines {s : State} {l : HostLines} {rest : List HostRow} (h : s.host = .lines l :: rest) :
    step s = atomicStep l { s with host := rest } := by
  simp [step, stepRows, h]

/-- Past the end of the rows it is the block's own with nothing driven. -/
theorem step_of_nil {s : State} (h : s.host = []) : step s = atomicStep idleLines s := by
  obtain ⟨⟩ := s
  cases h
  rfl

/-- On a word that decodes the step is that of its operation (log 6). -/
theorem step_of_word {s : State} {w : TableWord} {i : Instr} {rest : List HostRow} (h : s.host = .word w :: rest)
    (hd : decode s.cfg w.format w.bits = .ok i) : step s = wordStep i rest (stepRows rest) s := by
  simp [step, stepRows, h, fetchWord, hd]

/-- The block's step selects an operation of one of the kinds of 00_scope R11. -/
theorem stepKind_of_fetchLines {l : HostLines} {s : State} {i : Instr} (h : fetchLines l s = .run i) :
    (stepKind i).isSome = true := by
  unfold fetchLines at h
  repeat' split at h
  all_goals first | cases h; rfl | cases h

/-- The selection reads neither the rows nor the records. -/
@[simp] theorem fetchLines_inputs (l : HostLines) (s : State) (r : List HostRow) (k : Option CodecResult) :
    fetchLines l { s with host := r, codecOut := k } = fetchLines l s := rfl

/-- Everything a step of the block can do: the operation of a kind of 00_scope R11 that its lines select. -/
theorem atomicStep_next {l : HostLines} {s t : State} (h : atomicStep l s = .next t) :
    ∃ i, fetchLines l s = .run i ∧ (stepKind i).isSome = true ∧ exec i s = .next t := by
  obtain ⟨i, hf, he⟩ := runFetched_next h
  exact ⟨i, hf, stepKind_of_fetchLines hf, he⟩

/-- Everything a decoded word can do: an operation of a kind of 00_scope R11, or a codec result recorded before the next
rows' step. -/
theorem wordStep_next {i : Instr} {rest : List HostRow} {after : State → Result} {s t : State}
    (h : wordStep i rest after s = .next t) :
    (∃ j r, (stepKind j).isSome = true ∧ exec j { s with host := r } = .next t) ∨
      ∃ k, after { s with codecOut := k } = .next t := by
  cases i with
  | transact ch => exact .inl ⟨.accept ch, _, rfl, h⟩
  | encode ch =>
    obtain ⟨u, hu, hn⟩ := andThen_next h
    simp only [exec, execEncode] at hu
    split at hu <;> cases hu
    exact .inr ⟨_, hn⟩
  | decode r1 r2 r3 => exact .inr ⟨_, h⟩
  | accept ch => exact .inl ⟨.accept ch, rest, rfl, h⟩
  | xchg1 c => exact .inl ⟨.xchg1 c, rest, rfl, h⟩
  | xchg2 cc => exact .inl ⟨.xchg2 cc, rest, rfl, h⟩
  | xchg3 => exact .inl ⟨.xchg3, rest, rfl, h⟩
  | ack => exact .inl ⟨.ack, rest, rfl, h⟩
  | faultEntry => exact .inl ⟨.faultEntry, rest, rfl, h⟩
  | reset => exact .inl ⟨.reset, rest, rfl, h⟩

/-- Everything rows can do: one operation of a kind of 00_scope R11, from a state that differs in the rows and the codec
record alone. -/
theorem stepRows_next {rows : List HostRow} {s t : State} (h : stepRows rows s = .next t) :
    ∃ i r k, (stepKind i).isSome = true ∧ exec i { s with host := r, codecOut := k } = .next t := by
  induction rows generalizing s with
  | nil =>
    obtain ⟨i, _, hk, he⟩ := atomicStep_next h
    exact ⟨i, _, s.codecOut, hk, he⟩
  | cons row rest ih =>
    cases row with
    | lines l =>
      obtain ⟨i, _, hk, he⟩ := atomicStep_next h
      exact ⟨i, _, s.codecOut, hk, he⟩
    | awaiting =>
      simp only [stepRows] at h
      split at h
      all_goals
        obtain ⟨i, _, hk, he⟩ := atomicStep_next h
        exact ⟨i, _, s.codecOut, hk, he⟩
    | word w =>
      simp only [stepRows] at h
      split at h
      · obtain ⟨i, r, hk, he⟩ | ⟨k, hn⟩ := wordStep_next h
        · exact ⟨i, r, s.codecOut, hk, he⟩
        · obtain ⟨i, r, k, hk, he⟩ := ih hn
          exact ⟨i, r, k, hk, he⟩
      · cases h
      · cases h

/-- Everything a step of the machine can do. -/
theorem step_next {s t : State} (h : step s = .next t) :
    ∃ i r k, (stepKind i).isSome = true ∧ exec i { s with host := r, codecOut := k } = .next t := stepRows_next h

end Sys2Proof.Machine
end

