-- ==== Sys2Proof/Laws/Exec.lean ====
section
/-! SUPPORT. An invariant of every operation from its atomic parts, and the small laws of the invariants' vocabulary. -/

namespace Sys2Proof.Machine

/-- After exchange 1 the frame stands at X2 or is done (41_transaction R92). -/
theorem exchange1_st {s t : State} (h : exchange1 s = .next t) : t.st = .x2 ∨ t.st = .done := by
  obtain ⟨w, _, ⟨_, rfl⟩ | ⟨b, _, rfl⟩⟩ := exchange1_next h <;> simp

/-- After exchange 2 the frame stands at X3 or is done (R93). -/
theorem exchange2_st {s t : State} (h : exchange2 s = .next t) : t.st = .x3 ∨ t.st = .done := by
  obtain ⟨w, _, ⟨_, rfl⟩ | ⟨b, _, rfl⟩⟩ := exchange2_next h <;> simp

/-- After exchange 3 the frame is done (R94). -/
theorem exchange3_st {s t : State} (h : exchange3 s = .next t) : t.st = .done := by
  obtain ⟨_, rfl⟩ | ⟨b, n, _, _, rfl⟩ := exchange3_next h <;> simp

/-- What each atomic operation keeps, every instruction keeps, TRANSACT among them: the one induction over the
operations. -/
theorem exec_keeps {P : State → Prop}
    (hopen : ∀ s c, P s → s.st = .idle → P (s.openFrame c))
    (h1 : ∀ s t, P s → s.st = .x1 → exchange1 s = .next t → P t)
    (h2 : ∀ s t, P s → s.st = .x2 → exchange2 s = .next t → P t)
    (h3 : ∀ s t, P s → s.st = .x3 → exchange3 s = .next t → P t)
    (hack : ∀ s t, P s → s.st = .done → acknowledge s = .next t → P t)
    (hfault : ∀ s b, P s → xOut s = some b → s.answer = .fault → P (s.exchange b).raiseTransportFault)
    (hreset : ∀ s, P s → P s.resetBlock)
    (hcodec : ∀ s k, P s → P { s with codecOut := k })
    {i : Instr} {s t : State} (hs : P s) (h : exec i s = .next t) : P t := by
  cases i with
  | transact ch =>
    obtain ⟨c, s2, s3, s4, hi, _, e1, e2, e3, e4⟩ := execTransact_next h
    have p2 : P s2 := h1 _ _ (hopen s c hs hi) rfl e1
    have ⟨p3, d3⟩ : P s3 ∧ (s3.st = .x3 ∨ s3.st = .done) := by
      obtain ⟨q, e⟩ | ⟨q, rfl⟩ := whileAt_next e2
      · exact ⟨h2 _ _ p2 q e, exchange2_st e⟩
      · exact ⟨p2, .inr ((exchange1_st e1).resolve_left q)⟩
    have ⟨p4, d4⟩ : P s4 ∧ s4.st = .done := by
      obtain ⟨q, e⟩ | ⟨q, rfl⟩ := whileAt_next e3
      · exact ⟨h3 _ _ p3 q e, exchange3_st e⟩
      · exact ⟨p3, d3.resolve_left q⟩
    exact hack _ _ p4 d4 e4
  | accept ch =>
    obtain ⟨q, c, _, rfl⟩ := execAccept_next h
    exact hopen _ _ hs q
  | xchg1 c =>
    obtain ⟨q, e⟩ := execXchg1_next h
    exact h1 _ _ hs q e
  | xchg2 cc =>
    obtain ⟨q, e⟩ := execXchg2_next h
    exact h2 _ _ hs q e
  | xchg3 =>
    obtain ⟨q, e⟩ := execXchg3_next h
    exact h3 _ _ hs q e
  | ack =>
    obtain ⟨q, e⟩ := execAck_next h
    exact hack _ _ hs q e
  | faultEntry =>
    obtain ⟨b, q, a, rfl⟩ := execFaultEntry_next h
    exact hfault _ _ hs q a
  | reset =>
    cases h
    exact hreset _ hs
  | encode ch =>
    simp only [exec, execEncode] at h
    split at h <;> cases h
    exact hcodec _ _ hs
  | decode r1 r2 r3 =>
    cases h
    exact hcodec _ _ hs

/-- A byte is offered to the transport only in an open frame (10_state R30). -/
theorem frameOpen_of_xOut {s : State} {b : Byte} (h : xOut s = some b) : frameOpen s.st := by
  unfold xOut at h
  unfold frameOpen
  cases hs : s.st <;> simp_all

/-- The bus after two sequences is the second one's end from the first one's. -/
theorem busPos_append (l m : List WireEvent) : busPos (l ++ m) = m.foldl busNext (busPos l) := by
  simp [busPos]

/-- An answer is a byte or a fault (00_scope R10). -/
theorem answer_byte_or_fault (s : State) : (∃ b, s.answer = .byte b) ∨ s.answer = .fault := by
  cases h : s.answer <;> simp

/-- Decoding and encoding read the prefix of a block alone, not whether its transport can fail. -/
theorem decode_congr {c d : Config} (h : c.prefixTop = d.prefixTop) (f : Format) (w : Nat) :
    decode c f w = decode d f w := by
  cases f <;> simp [decode, decodeTx1, decodeCmd, h]

end Sys2Proof.Machine
end

