-- ==== Sys2Proof/Laws/Caller.lean ====
section
/-! SUPPORT. What a step on the host's lines can do, and the turns of a host program. -/

namespace Sys2Proof.Machine

/-- A step on lines placed before the listed rows is the block's step on the state as it was (41_transaction R102). -/
theorem stepOn_eq (l : HostLines) (s : State) : stepOn l s = atomicStep l s := step_of_lines rfl

/-- In an open frame only `rst` is read of the host's lines (41_transaction R95, R97, R98). -/
theorem atomicStep_of_frameOpen {s : State} (h : frameOpen s.st) {l m : HostLines} (hl : l.rst = m.rst) :
    atomicStep l s = atomicStep m s := by
  have : fetchLines l s = fetchLines m s := by
    rcases h with h | h | h <;> simp [fetchLines, h, hl]
  simp only [atomicStep, this]

@[simp] theorem hostTurn_req (ch : Nat) (ops : List HostOp) (s : State) :
    hostTurn (.req ch :: ops) s = .drive (reqLines ch) (if reqReady s then ops else .req ch :: ops) [] := by
  cases h : reqReady s <;> simp [hostTurn, HostOp.takenAt, HostOp.lines, HostOp.reads, h]

@[simp] theorem hostTurn_ack (ops : List HostOp) (s : State) :
    hostTurn (.ack :: ops) s =
      if rspValid s then .drive ackLines ops (HostOp.ack.reads s) else .drive idleLines (.ack :: ops) [] := by
  cases h : rspValid s <;> simp [hostTurn, HostOp.takenAt, HostOp.lines, h]

@[simp] theorem hostTurn_reset (ops : List HostOp) (s : State) :
    hostTurn (.reset :: ops) s = .drive rstLines ops [] := rfl

end Sys2Proof.Machine
end

