-- ==== Sys2Proof/Laws/PerInstr.lean ====
section
/-! SUPPORT. The family RoundTrip, made per instruction: decoding an encoded well-formed instruction gives it back. -/

namespace Sys2Proof.Laws.RoundTrip

/-- What the family says of one instruction, in every block. -/
def Statement (i : Instr) : Prop :=
  ∀ c : Config, i.wf = true → decode c (encode c i).format (encode c i).bits = .ok i

theorem transact (ch : Nat) : Statement (.transact ch) := by
  intro c h
  simp_all [Instr.wf, encode, decode, decodeChannel]

theorem accept (ch : Nat) : Statement (.accept ch) := by
  intro c h
  simp_all [Instr.wf, encode, decode, decodeChannel]

/-- The byte that `encode` gives for XCHG1, as its two fields. -/
theorem tx1_fields (p : BitVec 7) (b : BitVec 1) :
    p.toNat * 2 + b.toNat < 2 ^ 8 ∧
    (BitVec.ofNat 8 (p.toNat * 2 + b.toNat)).extractLsb' 1 7 = p ∧
    (BitVec.ofNat 8 (p.toNat * 2 + b.toNat)).extractLsb' 0 1 = b := by
  have hp := p.isLt
  have hb := b.isLt
  refine ⟨by omega, ?_, ?_⟩ <;> apply BitVec.eq_of_toNat_eq <;>
    simp only [BitVec.extractLsb'_toNat, BitVec.toNat_ofNat, Nat.shiftRight_eq_div_pow] <;> omega

theorem xchg1 (b : BitVec 1) : Statement (.xchg1 b) := by
  intro c _
  obtain ⟨hlt, hp, hb⟩ := tx1_fields c.prefixTop b
  simp only [encode, decode, decodeTx1, if_pos hlt, hp, hb, if_true]

/-- The byte that `encode` gives for XCHG2, as its two fields. -/
theorem tx2_fields (cc : BitVec 2) :
    cc.toNat * 2 ^ 6 < 2 ^ 8 ∧
    (BitVec.ofNat 8 (cc.toNat * 2 ^ 6)).extractLsb' 0 6 = 0#6 ∧
    (BitVec.ofNat 8 (cc.toNat * 2 ^ 6)).extractLsb' 6 2 = cc := by
  have hc := cc.isLt
  refine ⟨by omega, ?_, ?_⟩ <;> apply BitVec.eq_of_toNat_eq <;>
    simp only [BitVec.extractLsb'_toNat, BitVec.toNat_ofNat, Nat.shiftRight_eq_div_pow] <;> omega

theorem xchg2 (cc : BitVec 2) : Statement (.xchg2 cc) := by
  intro c _
  obtain ⟨hlt, hz, hc⟩ := tx2_fields cc
  simp only [encode, decode, decodeTx2, if_pos hlt, hz, hc, if_true]

theorem xchg3 : Statement .xchg3 := by
  intro c _
  simp [encode, decode, decodeTx3]

theorem ack : Statement .ack := by
  intro c _
  simp [encode, decode, decodeOne]

theorem faultEntry : Statement .faultEntry := by
  intro c _
  simp [encode, decode, decodeOne]

theorem reset : Statement .reset := by
  intro c _
  simp [encode, decode, decodeOne]

/-- The word that `encode` gives for ENCODE, as its three fields. -/
theorem cmd_fields (p : BitVec 7) {ch : Nat} (h : ch < 8) :
    p.toNat * 2 ^ 9 + ch * 2 ^ 6 < 2 ^ 16 ∧
    (BitVec.ofNat 16 (p.toNat * 2 ^ 9 + ch * 2 ^ 6)).extractLsb' 9 7 = p ∧
    (BitVec.ofNat 16 (p.toNat * 2 ^ 9 + ch * 2 ^ 6)).extractLsb' 0 6 = 0#6 ∧
    ((BitVec.ofNat 16 (p.toNat * 2 ^ 9 + ch * 2 ^ 6)).extractLsb' 6 3).toNat = ch := by
  have hp := p.isLt
  refine ⟨by omega, ?_, ?_, ?_⟩ <;> (try apply BitVec.eq_of_toNat_eq) <;>
    simp only [BitVec.extractLsb'_toNat, BitVec.toNat_ofNat, Nat.shiftRight_eq_div_pow] <;> omega

theorem encode (ch : Nat) : Statement (.encode ch) := by
  intro c h
  have hch : ch < 8 := by simpa [Instr.wf] using h
  obtain ⟨hlt, hp, hz, hc⟩ := cmd_fields c.prefixTop hch
  simp only [Sys2Proof.encode, Sys2Proof.decode, decodeCmd, if_pos hlt, hp, hz, hc, and_self, if_true]

/-- The number that `encode` gives for DECODE, as its three bytes. -/
theorem rsp_fields (r1 r2 r3 : Byte) :
    r1.toNat * 2 ^ 16 + r2.toNat * 2 ^ 8 + r3.toNat < 2 ^ 24 ∧
    (BitVec.ofNat 24 (r1.toNat * 2 ^ 16 + r2.toNat * 2 ^ 8 + r3.toNat)).extractLsb' 16 8 = r1 ∧
    (BitVec.ofNat 24 (r1.toNat * 2 ^ 16 + r2.toNat * 2 ^ 8 + r3.toNat)).extractLsb' 8 8 = r2 ∧
    (BitVec.ofNat 24 (r1.toNat * 2 ^ 16 + r2.toNat * 2 ^ 8 + r3.toNat)).extractLsb' 0 8 = r3 := by
  have h1 := r1.isLt
  have h2 := r2.isLt
  have h3 := r3.isLt
  refine ⟨by omega, ?_, ?_, ?_⟩ <;> apply BitVec.eq_of_toNat_eq <;>
    simp only [BitVec.extractLsb'_toNat, BitVec.toNat_ofNat, Nat.shiftRight_eq_div_pow] <;> omega

theorem decode (r1 r2 r3 : Byte) : Statement (.decode r1 r2 r3) := by
  intro c _
  obtain ⟨hlt, h1, h2, h3⟩ := rsp_fields r1 r2 r3
  simp only [Sys2Proof.encode, Sys2Proof.decode, decodeRsp, if_pos hlt, h1, h2, h3]

end Sys2Proof.Laws.RoundTrip
end

