-- ==== Sys2Proof/Tests/Slice0.lean ====
section
/-! SUPPORT. The model's own tests: expected values are the vectors of spec/95_test_vectors.md and the encodings of
spec/30_encoding.md; then, for each statement with hypotheses, a state and operands that meet them. -/

namespace Sys2Proof.Tests

open Sys2Proof Sys2Proof.Machine

/-! ## Helpers -/

/-- A block that can fail, with the spec's prefix, in the state the spec writes
`{ST, CMD, HI, LO, SAMPLE, STATUS, CS_N, FAULT_SEEN}`. -/
def at8 (st : FrameState) (cmd : Option CommandWord) (hi : Option Nibble) (lo : Option Byte) (sample : Option Sample)
    (status : Option Status) (csN : BitVec 1) (fs : Bool) : State :=
  { State.resetWith (Config.standard true) with
    st := st, cmd := cmd, hi := hi, lo := lo, sample := sample, status := status, csN := csN, faultSeen := fs }

/-- The same with the transport's answers. -/
def answering (rs : List Reply) (s : State) : State := { s with replies := rs }

/-- The same with one row of lines. -/
def driven (l : HostLines) (s : State) : State := { s with host := [.lines l] }

def byteReply (b : Byte) : Reply := { xIn := b, xFault := false }
def faultReply : Reply := { xIn := 0, xFault := true }

/-- ResetState. -/
def rs0 : State := at8 .idle none none none none none 1 false

/-- The block's registers after a result. -/
def blockOf (o : Result) : Option Block := (nextOf o).map State.block

/-! ## WellFormed: each check refuses an ill-formed term -/

theorem test_wf_transact_channel : (Instr.transact 8).wf = false := by decide
theorem test_wf_accept_channel : (Instr.accept 8).wf = false := by decide
theorem test_wf_encode_channel : (Instr.encode 9).wf = false := by decide
theorem test_wf_last_channel : (Instr.transact 7).wf = true := by decide

/-! ## Decoding: a word of each format, written out from 30_encoding -/

/-- F-HREQ `ccc`, channel 5 (R69). -/
theorem test_decode_transact : decode (Config.standard true) .hreqTransact 0b101 = .ok (.transact 5) := by decide
theorem test_decode_accept : decode (Config.standard true) .hreqAccept 0b110 = .ok (.accept 6) := by decide
/-- F-TX1 `0000010c`, c = 1 (R63). -/
theorem test_decode_xchg1 : decode (Config.standard true) .tx1 0b00000101 = .ok (.xchg1 1#1) := by decide
/-- F-TX2 `cc000000`, cc = 10 (R64). -/
theorem test_decode_xchg2 : decode (Config.standard true) .tx2 0b10000000 = .ok (.xchg2 2#2) := by decide
theorem test_decode_xchg3 : decode (Config.standard true) .tx3 0b00000000 = .ok .xchg3 := by decide
theorem test_decode_ack : decode (Config.standard true) .hack 1 = .ok .ack := by decide
theorem test_decode_fault : decode (Config.standard true) .rspFault 1 = .ok .faultEntry := by decide
theorem test_decode_reset : decode (Config.standard true) .rst 1 = .ok .reset := by decide
/-- F-CMD `0000010ccc000000`, channel 5, and with `CMD_PREFIX = 0x0600` (V-E5, V-E8). -/
theorem test_decode_encode : decode (Config.standard true) .cmd 0b0000010101000000 = .ok (.encode 5) := by decide
theorem test_decode_encode_0600 : decode ⟨0b0000011#7, false⟩ .cmd 0x0740 = .ok (.encode 5) := by decide
/-- F-RSP, the frame of R90's example. -/
theorem test_decode_decode : decode (Config.standard true) .rspFrame 0xFFE721 = .ok (.decode 0xFF 0xE7 0x21) := by
  decide
/-- Reserved: M set, a zero bit set, an idle line, a channel of 8 (R71). -/
theorem test_decode_rejects_m : decode (Config.standard true) .cmd 0x0740 = .rejected .fixedBits := by decide
theorem test_decode_rejects_low : decode (Config.standard true) .tx2 0x41 = .rejected .fixedBits := by decide
theorem test_decode_rejects_idle : decode (Config.standard true) .rst 0 = .rejected .fixedBits := by decide
theorem test_decode_rejects_channel : decode (Config.standard true) .hreqAccept 8 = .rejected (.invalidChannel 8) := by
  decide
theorem test_decode_rejects_wide : decode (Config.standard true) .tx3 256 = .rejected .tooWide := by decide
theorem test_table_words :
    decodeTableWord 8 5 = some (.xchg1 1) ∧ decodeTableWord 8 0xC0 = some (.xchg2 3) ∧
    decodeTableWord 8 0 = some .xchg3 ∧ decodeTableWord 8 1 = some .reset ∧
    decodeTableWord 16 0x0400 = some (.encode 0) ∧ decodeTableWord 24 0x000123 = some (.decode 0 1 0x23) ∧
    decodeTableWord 16 0x0200 = none := by decide

/-! ## The vectors of 95_test_vectors -/

/-- V-E7, V-E8. -/
theorem test_encode_7 : (nextOf (exec (.encode 7) rs0)).map (·.codecOut) = some (some (.command 0x05C0)) := by decide
theorem test_encode_prefix_0600 :
    (nextOf (exec (.encode 5) (State.resetWith ⟨0b0000011#7, false⟩))).map (·.codecOut) =
      some (some (.command 0x0740)) := by decide
/-- V-D10, V-D14. -/
theorem test_decode_junk_nibble :
    (nextOf (exec (.decode 0 0xA5 0x3C) rs0)).map (·.codecOut) = some (some (.sample 1340)) := by decide
theorem test_decode_round_trip :
    (nextOf (exec (.decode 0xFF 0x01 0x23) rs0)).map (·.codecOut) = some (some (.sample 291)) := by decide
/-- V-S1, V-S2. -/
theorem test_accept : blockOf (exec (.accept 3) rs0) = some ⟨.x1, some 0x04C0, none, none, none, none, 0, false⟩ := by
  decide
theorem test_accept_clears :
    blockOf (exec (.accept 0) (at8 .idle (some 0x0540) (some 7) (some 0x21) (some 1825) (some .ok) 1 false)) =
      some ⟨.x1, some 0x0400, none, none, none, none, 0, false⟩ := by decide
/-- V-S4, V-F1. -/
theorem test_xchg1 :
    blockOf (exec (.xchg1 1) (answering [byteReply 0xFF] (at8 .x1 (some 0x0540) none none none none 0 false))) =
      some ⟨.x2, some 0x0540, none, none, none, none, 0, false⟩ := by decide
theorem test_xchg1_fault :
    blockOf (exec (.xchg1 1) (answering [faultReply] (at8 .x1 (some 0x0580) none none none none 0 false))) =
      some ⟨.done, some 0x0580, none, none, none, some .transportFault, 1, true⟩ := by decide
/-- V-S7, V-F2. -/
theorem test_xchg2_junk_nibble :
    blockOf (exec (.xchg2 1) (answering [byteReply 0xF0] (at8 .x2 (some 0x0540) none none none none 0 false))) =
      some ⟨.x3, some 0x0540, some 0, none, none, none, 0, false⟩ := by decide
theorem test_xchg2_fault :
    blockOf (exec (.xchg2 2) (answering [faultReply] (at8 .x2 (some 0x0580) none none none none 0 false))) =
      some ⟨.done, some 0x0580, none, none, none, some .transportFault, 1, true⟩ := by decide
/-- V-S8, V-F3. -/
theorem test_xchg3 :
    blockOf (exec .xchg3 (answering [byteReply 0x21] (at8 .x3 (some 0x0540) (some 7) none none none 0 false))) =
      some ⟨.done, some 0x0540, some 7, some 0x21, some 1825, some .ok, 1, false⟩ := by decide
theorem test_xchg3_fault :
    blockOf (exec .xchg3 (answering [faultReply] (at8 .x3 (some 0x0580) (some 9) none none none 0 false))) =
      some ⟨.done, some 0x0580, some 9, none, none, some .transportFault, 1, true⟩ := by decide
/-- V-S10, V-F4. -/
theorem test_ack :
    (nextOf (exec .ack (at8 .done (some 0x0540) (some 7) (some 0x21) (some 1825) (some .ok) 1 false))).map
      (fun t => (t.st, t.received)) = some (.idle, [⟨.ok, some 1825⟩]) := by decide
theorem test_ack_fault :
    (nextOf (exec .ack (at8 .done (some 0x0580) none none none (some .transportFault) 1 true))).map
      (fun t => (t.block, t.received)) =
      some (⟨.idle, some 0x0580, none, none, none, some .transportFault, 1, true⟩, [⟨.transportFault, none⟩]) := by
  decide
/-- V-F1, V-F3 as the fault entry. -/
theorem test_fault_entry :
    blockOf (exec .faultEntry (answering [faultReply] (at8 .x1 (some 0x0580) none none none none 0 false))) =
      some ⟨.done, some 0x0580, none, none, none, some .transportFault, 1, true⟩ := by decide
theorem test_fault_entry_needs_fault :
    faultOf (exec .faultEntry (answering [byteReply 0] (at8 .x3 (some 0x0580) (some 9) none none none 0 false))) =
      some .noFaultAnswer := by decide
/-- V-R1, V-R4. -/
theorem test_reset_mid_frame : blockOf (exec .reset (at8 .x2 (some 0x0440) none none none none 0 false)) =
    some ⟨.idle, none, none, none, none, none, 1, false⟩ := by decide
theorem test_reset_clears_sticky :
    blockOf (exec .reset (at8 .idle (some 0x0580) none none none (some .transportFault) 1 true)) =
      some ⟨.idle, none, none, none, none, none, 1, false⟩ := by decide
/-- The example of R90, with its bytes on the wire. -/
theorem test_transact :
    (nextOf (exec (.transact 5) (answering [byteReply 0xFF, byteReply 0xE7, byteReply 0x21] rs0))).map
      (fun t => (t.received, t.wire)) =
      some ([⟨.ok, some 1825⟩],
        [.cs 0, .xchg 0x05 (.byte 0xFF), .xchg 0x40 (.byte 0xE7), .xchg 0x00 (.byte 0x21), .cs 1]) := by decide
/-- The first frame of program P4. -/
theorem test_transact_fault :
    (nextOf (exec (.transact 6) (answering [byteReply 0x00, faultReply] rs0))).map
      (fun t => (t.block, t.wire)) =
      some (⟨.idle, some 0x0580, none, none, none, some .transportFault, 1, true⟩,
        [.cs 0, .xchg 0x05 (.byte 0x00), .xchg 0x80 .fault, .cs 1]) := by decide
/-- V-S12: a request while busy is not taken. -/
theorem test_step_busy :
    blockOf (step (driven ⟨false, true, 2, false⟩
      (answering [byteReply 0x12] (at8 .x2 (some 0x0540) none none none none 0 false)))) =
      some ⟨.x3, some 0x0540, some 2, none, none, none, 0, false⟩ := by decide
/-- V-S3, V-S13: no step. -/
theorem test_step_quiescent : faultOf (step rs0) = some .quiescentIdle := by decide
theorem test_step_done_request :
    faultOf (step (driven ⟨false, true, 2, false⟩
      (at8 .done (some 0x0540) (some 7) (some 0x21) (some 1825) (some .ok) 1 false))) = some .quiescentDone := by decide
/-- V-F6, V-R6: reset beats a fault and an accept. -/
theorem test_step_reset_beats_fault :
    blockOf (step (driven ⟨true, false, 0, false⟩
      (answering [faultReply] (at8 .x2 (some 0x0580) none none none none 0 false)))) =
      some ⟨.idle, none, none, none, none, none, 1, false⟩ := by decide
theorem test_step_reset_beats_accept :
    blockOf (step (driven ⟨true, true, 4, false⟩ rs0)) = some ⟨.idle, none, none, none, none, none, 1, false⟩ := by
  decide
/-- V-F7: a block that cannot fail takes the byte. -/
theorem test_step_no_fault :
    blockOf (step { (answering [faultReply] (at8 .x1 (some 0x0580) none none none none 0 false)) with
      cfg := Config.standard false }) = some ⟨.x2, some 0x0580, none, none, none, none, 0, false⟩ := by decide
/-- V-F8: InvalidChannel. -/
theorem test_step_invalid_channel :
    refusalOf (step (driven ⟨false, true, 9, false⟩ rs0)) = some (.invalidChannel 9) := by decide
/-- R126: the channel of a driven word too is judged in IDLE only. -/
theorem test_step_invalid_channel_word :
    refusalOf (step { rs0 with host := [.word ⟨.hreqAccept, 9⟩] }) = some (.invalidChannel 9) ∧
    faultOf (step { (at8 .x2 (some 0x0580) none none none none 0 false) with host := [.word ⟨.hreqAccept, 9⟩] }) =
      some (.notEnabled .x2) := by decide
/-- U15. -/
theorem test_instantiate_illegal : refusalOf (instantiate 0x0401 true) = some (.illegalPrefix 0x0401) := by decide
/-- 10_state R33: reading a register that is none is a fault, in a state no run reaches. -/
theorem test_none_read :
    faultOf (exec .xchg3 (answering [byteReply 1] (at8 .x3 (some 0x0580) none none none none 0 false))) =
      some (.noneRead .hi) := by decide

/-- P1 driven as one TRANSACT word: its step is the acceptance alone, the word then awaits, and the fifth step has used
it (R11, R90; the states of P1's table). -/
theorem test_transact_word :
    let s := { (answering [byteReply 0xFF, byteReply 0xEF, byteReply 0xFF] rs0) with host := [.word ⟨.hreqTransact, 7⟩] }
    blockOf (step s) = some ⟨.x1, some 0x05C0, none, none, none, none, 0, false⟩ ∧
    (nextOf (step s)).map (·.host) = some [.awaiting] ∧
    blockOf (runSteps 4 s) = some ⟨.done, some 0x05C0, some 0xF, some 0xFF, some 4095, some .ok, 1, false⟩ ∧
    blockOf (runSteps 5 s) = some ⟨.idle, some 0x05C0, some 0xF, some 0xFF, some 4095, some .ok, 1, false⟩ ∧
    (nextOf (runSteps 5 s)).map (·.host) = some [] := by decide
/-- The codec's words make no step of their own: alone in IDLE the block stays quiescent, and placed they are evaluated in
the step that uses them (40_codec R80, R83 examples: channel 5 and the frame of R90's example). -/
theorem test_codec_words :
    faultOf (step { rs0 with host := [.word ⟨.cmd, 0x0540⟩] }) = some .quiescentIdle ∧
    ((nextOf (step (State.reset.withFetchWord 16 0x0540))).map fun t => (t.cmd, t.codecOut)) =
      some (some 0x0540, some (.command 0x0540)) ∧
    ((nextOf (step (State.reset.withFetchWord 24 0xFFE721))).map fun t => (t.sample, t.codecOut)) =
      some (some 0x721, some (.sample 0x721)) := by decide

/-- The six frames of program P3: `0x00, 0x00, s_k` with s = 1, 1, 1, 5, 2, 2. -/
def p3Replies : List Reply :=
  [1, 1, 1, 5, 2, 2].flatMap fun k => [byteReply 0, byteReply 0, byteReply k]

/-- W10: the triggering 5 is discarded, and [2, 2] is returned. -/
theorem test_read_many_until :
    (match readManyUntil 2 2 (· == 5) 6 (answering p3Replies rs0) with
      | some (.samples vs t) => vs == [2, 2] && t.block == ⟨.idle, some 0x0480, some 0, some 2, some 2, some .ok, 1, false⟩
      | _ => false) = true := by decide

/-- P1: READONE on channel 7 as a program, with the waits found by the run; what the ACK reads, and the end state. -/
theorem test_host_p1 :
    (match runHost 6 (readOneProgram 7) [] (answering [byteReply 0xFF, byteReply 0xEF, byteReply 0xFF] rs0) with
      | .ended rs t => rs == [⟨0, some 4095⟩] &&
          t.block == ⟨.idle, some 0x05C0, some 0xF, some 0xFF, some 4095, some .ok, 1, false⟩
      | _ => false) = true := by decide
/-- P4: the fault and the recovery on channel 6, read as (1, none) and (0, 291). -/
theorem test_host_p4 :
    (match runHost 10 (readProgram [6, 6]) []
        (answering [byteReply 0, faultReply, byteReply 0, byteReply 0x01, byteReply 0x23] rs0) with
      | .ended rs t => rs == [⟨1, none⟩, ⟨0, some 291⟩] && t.faultSeen
      | _ => false) = true := by decide
/-- P5: reset after exchange 1 and before exchange 2, then a clean read on channel 1. -/
theorem test_host_p5 :
    (match runHost 9 [.req 1, .pause, .reset, .req 1, .ack] []
        (answering [byteReply 0x55, byteReply 0xAA, byteReply 0x13, byteReply 0x10] rs0) with
      | .ended rs t => rs == [⟨0, some 0x310⟩] && t.wire == [.cs 0, .xchg 0x04 (.byte 0x55), .cs 1, .cs 0,
          .xchg 0x04 (.byte 0xAA), .xchg 0x40 (.byte 0x13), .xchg 0x00 (.byte 0x10), .cs 1]
      | _ => false) = true := by decide
/-- U16, R97: a second REQ is held while the block is busy and then waits in DONE. -/
theorem test_host_req_waits :
    (match runHost 6 [.req 1, .req 2] [] (answering [byteReply 0, byteReply 0, byteReply 0] rs0) with
      | .waits ops _ t => ops == [.req 2] && t.st == .done
      | _ => false) = true := by decide

/-! ## Witnesses: each statement's hypotheses can be met, clause by clause -/

/-- States at each position of a frame on channel 7, whose transport answers with a byte or a fault. -/
def inX1 (r : Reply) : State := answering [r] (at8 .x1 (some 0x05C0) none none none none 0 false)
def inX2 (r : Reply) : State := answering [r] (at8 .x2 (some 0x05C0) none none none none 0 false)
def inX3 (r : Reply) : State := answering [r] (at8 .x3 (some 0x05C0) (some 0xF) none none none 0 false)
def inDone : State := at8 .done (some 0x05C0) (some 0xF) (some 0xFF) (some 4095) (some .ok) 1 false
def inDoneFault : State := at8 .done (some 0x05C0) none none none (some .transportFault) 1 true

theorem word7 : commandWord (Config.standard true) 7#3 = 0x05C0#16 := by decide

theorem inX1_inv (r : Reply) : Inv (inX1 r) ∧ FrameInv (inX1 r) := by
  refine ⟨⟨by simp [inX1, answering, at8, frameOpen], ?_, ?_, ?_, ?_, ?_, ?_⟩, ⟨?_, ?_, ?_⟩⟩ <;>
    simp [inX1, answering, at8, State.resetWith]
  exact ⟨7, word7.symm⟩

theorem inX2_inv (r : Reply) : Inv (inX2 r) ∧ FrameInv (inX2 r) := by
  refine ⟨⟨by simp [inX2, answering, at8, frameOpen], ?_, ?_, ?_, ?_, ?_, ?_⟩, ⟨?_, ?_, ?_⟩⟩ <;>
    simp [inX2, answering, at8, State.resetWith]
  exact ⟨7, word7.symm⟩

theorem inX3_inv (r : Reply) : Inv (inX3 r) ∧ FrameInv (inX3 r) := by
  refine ⟨⟨by simp [inX3, answering, at8, frameOpen], ?_, ?_, ?_, ?_, ?_, ?_⟩, ⟨?_, ?_, ?_⟩⟩ <;>
    simp [inX3, answering, at8, State.resetWith]
  exact ⟨7, word7.symm⟩

theorem inDone_inv : Inv inDone := by
  refine ⟨by simp [inDone, at8, frameOpen], ?_, ?_, ?_, ?_, ?_, ?_⟩ <;> simp [inDone, at8, State.resetWith]
  · exact ⟨7, word7.symm⟩
  · decide

theorem inDoneFault_inv : Inv inDoneFault := by
  refine ⟨by simp [inDoneFault, at8, frameOpen], ?_, ?_, ?_, ?_, ?_, ?_⟩ <;> simp [inDoneFault, at8, State.resetWith]
  exact ⟨7, word7.symm⟩

theorem rs0_inv : Inv rs0 ∧ FrameInv rs0 ∧ Framed rs0 ∧ OneResponseEach rs0 ∧ NoFault rs0 := by
  refine ⟨⟨by simp [rs0, at8, frameOpen], ?_, ?_, ?_, ?_, ?_, ?_⟩, ⟨?_, ?_, ?_⟩, rfl, ?_, ?_⟩ <;>
    simp [rs0, at8, State.resetWith, frameOpen, OneResponseEach, acceptedCount, NoFault]

/-- ENCODE, ACCEPT, TRANSACT: the first and the last channel, in IDLE, and the first number that is none. -/
theorem meets_EncodeGivesPrefixOrShiftedChannel : (0 < 8 ∧ 7 < 8) ∧
    (nextOf (exec (.encode 0) rs0)).isSome = true ∧ (nextOf (exec (.encode 7) rs0)).isSome = true := by decide
theorem meets_EachOperationNeedsItsPosition :
    (nextOf (exec (.transact 7) (answering [faultReply] rs0))).isSome = true ∧
    (nextOf (exec (.accept 0) rs0)).isSome = true ∧
    (nextOf (exec (.xchg1 1) (inX1 zeroReply))).isSome = true ∧
    (nextOf (exec (.xchg2 3) (inX2 zeroReply))).isSome = true ∧
    (nextOf (exec .xchg3 (inX3 zeroReply))).isSome = true ∧ (nextOf (exec .ack inDone)).isSome = true ∧
    (nextOf (exec .faultEntry (inX1 faultReply))).isSome = true := by decide
theorem meets_AcceptOpensTheFrame : 8 ≤ 8 ∧ rs0.st = .idle ∧ (nextOf (exec (.accept 0) rs0)).isSome = true ∧
    (nextOf (exec (.accept 7) rs0)).isSome = true ∧ (inX1 zeroReply).st ≠ .idle := by decide
theorem meets_ChannelsOutsideTheRangeAreRefused : rs0.st = .idle ∧ 8 ≤ 8 ∧ 7 < 8 ∧
    refusalOf (exec (.accept 8) rs0) = some (.invalidChannel 8) := by decide
theorem meets_TransactRunsOneFrame_bytes :
    let s := answering [byteReply 1, byteReply 0xFF, byteReply 0xFF] rs0
    s.st = .idle ∧ s.answer = .byte 1 ∧ s.takeReply.answer = .byte 0xFF ∧
      s.takeReply.takeReply.answer = .byte 0xFF := by decide
theorem meets_TransactRunsOneFrame_fault1 : (answering [faultReply] rs0).answer = .fault := by decide
theorem meets_TransactRunsOneFrame_fault2 :
    let s := answering [byteReply 1, faultReply] rs0
    s.answer = .byte 1 ∧ s.takeReply.answer = .fault := by decide
theorem meets_TransactRunsOneFrame_fault3 :
    let s := answering [byteReply 1, byteReply 2, faultReply] rs0
    s.answer = .byte 1 ∧ s.takeReply.answer = .byte 2 ∧ s.takeReply.takeReply.answer = .fault := by decide
theorem meets_TransactAlwaysCompletes : rs0.st = .idle ∧ 0 < 8 ∧ 7 < 8 := by decide
theorem meets_TransactIsTheSequenceOfItsSteps : rs0.st = .idle ∧ 7 < 8 ∧
    (if (answering [faultReply] rs0).answer = .fault then 1 else 3) = 1 := by decide
theorem meets_ResultDoesNotDependOnTheChannel : rs0.st = .idle ∧ 0 < 8 ∧ 7 < 8 := by decide
theorem meets_ReadManyCompletes : rs0.st = .idle ∧ 7 < 8 ∧
    (State.resetWith (Config.standard false)).cfg.transportCanFail = false := by decide
theorem meets_ReadManyReturnsItsCountInOrder :
    (match readMany 0 2 (answering p3Replies rs0) with | .samples vs _ => vs == [1, 1] | _ => false) = true := by decide
theorem meets_IgnoredReplyBitsChangeNoSample : (0xF1#8 &&& 0x0F#8 = 0x01#8 &&& 0x0F#8) ∧ rs0.st = .idle ∧ 7 < 8 := by
  decide

/-- The exchanges, ACK and the fault entry. -/
theorem meets_FirstExchangeSendsHighByte : (inX1 zeroReply).st = .x1 ∧ (inX1 zeroReply).cmd = some 0x05C0 ∧
    (inX1 (byteReply 0xFF)).answer = .byte 0xFF ∧ (inX1 faultReply).answer = .fault := by decide
theorem meets_SecondExchangeCapturesNibble : (inX2 zeroReply).st = .x2 ∧ (inX2 zeroReply).cmd = some 0x05C0 ∧
    (inX2 (byteReply 0xF0)).answer = .byte 0xF0 ∧ (inX2 faultReply).answer = .fault := by decide
theorem meets_ThirdExchangeDecodesAndCloses : (inX3 zeroReply).st = .x3 ∧ (inX3 zeroReply).hi = some 0xF ∧
    (inX3 (byteReply 0xFF)).answer = .byte 0xFF ∧ (inX3 faultReply).answer = .fault := by decide
theorem meets_AckDeliversTheResponse : inDone.st = .done ∧ inDone.status = some .ok ∧ inDone.sample = some 4095 ∧
    inDoneFault.st = .done ∧ inDoneFault.status = some .transportFault := by decide
theorem meets_FaultEntryEndsTheFrame : xOut (inX1 faultReply) = some 0x05 ∧ xOut (inX2 faultReply) = some 0xC0 ∧
    xOut (inX3 faultReply) = some 0x00 ∧ (inX3 faultReply).answer = .fault := by decide
theorem meets_EachExchangeFaultsAsTheFaultEntry :
    (inX1 faultReply).answer = .fault ∧ (inX1 faultReply).cmd = some 0x05C0 ∧
    (inX2 faultReply).answer = .fault ∧ (inX2 faultReply).cmd = some 0x05C0 ∧
    (inX3 faultReply).answer = .fault ∧ (inX3 faultReply).st = .x3 := by decide
theorem meets_FaultLeavesEarlierCapturesOnly :
    Inv (inX3 faultReply) ∧ FrameInv (inX3 faultReply) ∧ Inv (inX1 faultReply) ∧ FrameInv (inX1 faultReply) ∧
    xOut (inX3 faultReply) = some 0x00 ∧ (nextOf (exec .faultEntry (inX3 faultReply))).isSome = true ∧
    (nextOf (exec .faultEntry (inX1 faultReply))).isSome = true :=
  ⟨(inX3_inv _).1, (inX3_inv _).2, (inX1_inv _).1, (inX1_inv _).2, by decide, by decide, by decide⟩
theorem meets_OnlyAFailingTransportAnswersFault : (inX1 zeroReply).cfg.transportCanFail = true ∧
    xOut (inX1 zeroReply) = some 0x05 ∧ (Config.standard false).transportCanFail = false ∧
    rs0.cfg.transportCanFail = true := by decide
theorem meets_EachExchangeUsesOneAnswer : (inX1 faultReply).replies = [faultReply] ∧ rs0.replies = [] ∧
    (nextOf (exec (.xchg1 1) (inX1 zeroReply))).isSome = true ∧
    (nextOf (exec (.xchg2 3) (inX2 zeroReply))).isSome = true ∧
    (nextOf (exec .xchg3 (inX3 zeroReply))).isSome = true ∧
    (nextOf (exec .faultEntry (inX1 faultReply))).isSome = true := by decide
/-- A step of each kind, a port-level block, and a driven word. -/
theorem meets_StepsAreMadeOfTheFourKinds :
    (nextOf (atomicStep (reqLines 7) rs0)).isSome = true ∧
    (nextOf (atomicStep idleLines (inX1 zeroReply))).isSome = true ∧
    (nextOf (atomicStep idleLines (inX3 faultReply))).isSome = true ∧
    (nextOf (atomicStep ackLines inDone)).isSome = true ∧ (nextOf (atomicStep rstLines inDone)).isSome = true ∧
    (nextOf (step { (answering [faultReply] rs0) with host := [.word ⟨.hreqTransact, 7⟩] })).isSome = true := by
  decide
theorem meets_StepsAreMadeOfTheFourKinds_port :
    PortLevel (driven (reqLines 7) rs0) ∧ (nextOf (step (driven (reqLines 7) rs0))).isSome = true :=
  ⟨by simp [PortLevel, driven], by decide⟩
theorem meets_StatusIsCodedOnThePort : Inv inDone ∧ Inv inDoneFault ∧ inDone.st = .done ∧
    rspStatusPort inDone = some 0#1 ∧ rspStatusPort inDoneFault = some 1#1 :=
  ⟨inDone_inv, inDoneFault_inv, by decide⟩
/-- Each clause: an accept, a refusal, the waits, an acknowledge, a reset, an open frame. -/
theorem meets_HostOperationsHoldUntilTaken : (nextOf (exec (.accept 7) rs0)).isSome = true ∧ rs0.st = .idle ∧ 8 ≤ 8 ∧
    inDone.st = .done ∧ (nextOf (exec .ack inDone)).isSome = true ∧ (nextOf (exec .ack inDoneFault)).isSome = true ∧
    (nextOf (exec .reset inDone)).isSome = true := by decide
theorem meets_HostOperationsHoldUntilTaken_open :
    Inv (inX1 zeroReply) ∧ frameOpen (inX1 zeroReply).st ∧ Inv (inX3 zeroReply) ∧ frameOpen (inX3 zeroReply).st ∧
      ¬ frameOpen rs0.st :=
  ⟨(inX1_inv _).1, .inl rfl, (inX3_inv _).1, .inr (.inr rfl), by simp [frameOpen, rs0, at8]⟩
theorem meets_ReadProgramsRunTheirTransacts : rs0.st = .idle ∧ (∀ ch ∈ [0, 7], ch < 8) ∧
    5 * ([0, 7] : List Nat).length < 11 := by decide
theorem meets_ReadManyUntilDiscardsTheTrigger :
    (match readManyUntil 2 1 (· == 5) 6 (answering p3Replies rs0) with
      | some (.samples vs _) => vs == [2]
      | _ => false) = true ∧
    (match readManyUntil 2 1 (· == 5) 6 (answering [faultReply] rs0) with
      | some (.transportFault _) => true
      | _ => false) = true := by decide
theorem meets_ReadManyUntilCompletes : rs0.st = .idle ∧ 2 < 8 ∧
    readManyUntil 2 1 (· == 5) 1 (answering p3Replies rs0) = none ∧
    (readManyUntil 2 1 (· == 1) 1 (answering p3Replies rs0)).isSome = true ∧
    (match readOne 2 { answering p3Replies rs0 with cfg := Config.standard false } with
      | .samples vs _ => vs == [1]
      | _ => false) = true := by decide
theorem meets_OperationsUseInputsAndRecordOutputs :
    (nextOf (exec (.accept 7) rs0)).isSome = true ∧ xOut (inX1 zeroReply) = some 0x05 ∧
    (nextOf (exec (.xchg1 1) (inX1 zeroReply))).isSome = true ∧
    (nextOf (exec (.xchg2 3) (inX2 zeroReply))).isSome = true ∧
    (nextOf (exec .xchg3 (inX3 zeroReply))).isSome = true ∧ (nextOf (exec .ack inDone)).isSome = true ∧
    (nextOf (exec .reset inDone)).isSome = true := by decide

/-- The invariants, and a step from a state that meets them. -/
theorem meets_EveryStepKeepsTheStateInvariants : Inv (inX3 zeroReply) ∧ (nextOf (step (inX3 zeroReply))).isSome = true :=
  ⟨(inX3_inv _).1, by decide⟩
theorem meets_EveryStepKeepsTheFrameInvariants :
    FrameInv (inX2 zeroReply) ∧ (nextOf (step (inX2 zeroReply))).isSome = true := ⟨(inX2_inv _).2, by decide⟩
theorem meets_TheWireIsAlwaysFramed :
    Framed (driven ⟨false, true, 7, false⟩ rs0) ∧ (nextOf (step (driven ⟨false, true, 7, false⟩ rs0))).isSome = true :=
  ⟨rfl, by decide⟩
theorem meets_AtMostOneResponsePerRequest :
    OneResponseEach { inDone with wire := [.cs 0, .cs 1], host := [.lines ⟨false, false, 0, true⟩] } ∧
    (nextOf (step { inDone with wire := [.cs 0, .cs 1], host := [.lines ⟨false, false, 0, true⟩] })).isSome = true := by
  unfold OneResponseEach acceptedCount
  decide
theorem meets_ANonFailingBlockSeesNoFault :
    NoFault { inX3 faultReply with cfg := Config.standard false } ∧
    (nextOf (step { inX3 faultReply with cfg := Config.standard false })).map (·.st) = some .done := by
  unfold NoFault
  decide
theorem meets_NoStepWritesTheConfiguration : (nextOf (step (inX1 zeroReply))).isSome = true := by decide
theorem meets_CommandIsWrittenAtAcceptanceOnly : (nextOf (exec .xchg3 (inX3 zeroReply))).isSome = true ∧
    Instr.xchg3 ≠ .reset := by decide
theorem meets_FaultSeenIsSticky : inDoneFault.faultSeen = true ∧ (nextOf (exec .ack inDoneFault)).isSome = true ∧
    (inX1 faultReply).faultSeen = false ∧
    (nextOf (exec .faultEntry (inX1 faultReply))).map (·.faultSeen) = some true := by decide
theorem meets_FaultSeenAndRecordsAreNeverRead : (nextOf (step (inX1 faultReply))).isSome = true ∧
    faultOf (step rs0) = some .quiescentIdle ∧
    refusalOf (step (driven ⟨false, true, 8, false⟩ rs0)) = some (.invalidChannel 8) := by decide
theorem meets_FramePositionsAdvanceInOrder :
    (nextOf (exec (.accept 0) rs0)).map (·.st) = some .x1 ∧
    (nextOf (exec (.xchg1 1) (inX1 zeroReply))).map (·.st) = some .x2 ∧
    (nextOf (exec (.xchg2 3) (inX2 zeroReply))).map (·.st) = some .x3 ∧
    (nextOf (exec .xchg3 (inX3 zeroReply))).map (·.st) = some .done ∧
    (nextOf (exec .ack inDone)).map (·.st) = some .idle := by decide

/-- The step function. -/
theorem meets_StepFollowsItsTable :
    Inv rs0 ∧ Inv (inX1 faultReply) ∧ Inv (inX2 zeroReply) ∧ Inv (inX3 zeroReply) ∧ Inv inDone ∧
    (inX1 faultReply).answer = .fault ∧ (inX1 zeroReply).answer = .byte 0 ∧ (inX2 zeroReply).cmd = some 0x05C0 ∧
    (driven ⟨false, true, 7, true⟩ rs0).host = [.lines ⟨false, true, 7, true⟩] :=
  ⟨rs0_inv.1, (inX1_inv _).1, (inX2_inv _).1, (inX3_inv _).1, inDone_inv, by decide, by decide, by decide, rfl⟩
theorem meets_AnOpenFrameAlwaysHasAStep :
    Inv (inX1 zeroReply) ∧ frameOpen (inX1 zeroReply).st ∧ Inv rs0 ∧ Inv inDone ∧
    (nextOf (step (driven ⟨false, true, 0, false⟩ rs0))).isSome = true ∧
    (nextOf (step (driven ⟨false, false, 0, true⟩ inDone))).isSome = true :=
  ⟨(inX1_inv _).1, .inl rfl, rs0_inv.1, inDone_inv, by decide, by decide⟩
theorem meets_QuiescentStatesMakeNoStep : rs0.st = .idle ∧ inDone.st = .done := by decide
theorem meets_BusyBlockDoesNotReadTheRequest : (inX2 zeroReply).st ≠ .idle ∧ inDone.st ≠ .idle := by decide
theorem meets_StepRunsTheDecodedWord :
    decode rs0.cfg .hreqAccept 7 = .ok (.accept 7) ∧ decode rs0.cfg .hreqTransact 7 = .ok (.transact 7) ∧
    decode rs0.cfg .cmd 0x05C0 = .ok (.encode 7) ∧ decode rs0.cfg .rspFrame 0xFFE721 = .ok (.decode 0xFF 0xE7 0x21) ∧
    (nextOf (step { rs0 with host := [.word ⟨.hreqAccept, 7⟩] })).isSome = true ∧
    (nextOf (runSteps 3 { (answering [faultReply] rs0) with host := [.word ⟨.hreqTransact, 7⟩] })).isSome = true := by
  decide
theorem meets_APlacedWordRunsAtTheNextStep :
    decodeTableWord 8 0xC0 = some (.xchg2 3) ∧ (nextOf (step (rs0.withFetchWord 8 0xC0))).isSome = true ∧
    decodeTableWord 8 0x07 = some (.transact 7) ∧ decodeTableWord 16 0x05C0 = some (.encode 7) ∧
    decodeTableWord 24 0xFFE721 = some (.decode 0xFF 0xE7 0x21) := by decide

/-- Outputs, encodings and configurations. -/
theorem meets_OutputsAreTheirFunctions : inDone.st = .done ∧ inDone.status = some .ok ∧ rs0.st ≠ .done ∧
    (inX1 zeroReply).st = .x1 ∧ (inX2 zeroReply).st = .x2 ∧ (inX3 zeroReply).st = .x3 ∧ xOut rs0 = none := by decide
theorem meets_HostSeesAWholeSampleOrAFault : Inv inDone ∧ Inv inDoneFault ∧ Inv rs0 :=
  ⟨inDone_inv, inDoneFault_inv, rs0_inv.1⟩
theorem meets_SentBytesFollowThePosition :
    (inX1 zeroReply).cmd = some (commandWord (inX1 zeroReply).cfg 7) ∧
    (inX1 zeroReply).cfg.prefixTop = 0b0000010#7 ∧ xOut (inX1 zeroReply) = some 0x05 ∧
    (inX2 zeroReply).cmd = some (commandWord (inX2 zeroReply).cfg 7) ∧
    (inX3 zeroReply).cmd = some (commandWord (inX3 zeroReply).cfg 7) := by decide
theorem meets_OnlyLegalPrefixesAreInstantiated :
    0xFE00#16 &&& 0x01FF#16 = 0#16 ∧ 0x0100#16 &&& 0x01FF#16 ≠ 0#16 := by decide
theorem meets_DecodeOfEncodeIsTheInstruction : (Instr.transact 7).wf = true ∧ (Instr.encode 0).wf = true := by decide
theorem meets_EachWordHasOneMeaning : decode (Config.standard false) .cmd 0x05C0 = .ok (.encode 7) := by decide

end Sys2Proof.Tests
end

section
/-! PROOFS. The statements of spec/00_scope.md: the legal values of `CMD_PREFIX` (R5), the transport that can fail (R6) and the four
kinds of step (R11). -/

namespace Sys2Proof.Machine

/-! ### `CMD_PREFIX` (R5) -/

/-- Masking with the nine low bits leaves the remainder by `2 ^ 9`. -/
theorem toNat_and_lowNine (p : CommandWord) : (p &&& 0x01FF#16).toNat = p.toNat % 2 ^ 9 :=
  Nat.and_two_pow_sub_one_eq_mod p.toNat 9

/-- A legal `CMD_PREFIX` is rebuilt from its bits [15:9], which are all that `Config` holds (log 4). -/
theorem cmdPrefix_of_legal {p : CommandWord} (h : p &&& 0x01FF#16 = 0#16) (canFail : Bool) :
    Config.cmdPrefix { prefixTop := p.extractLsb' 9 7, transportCanFail := canFail } = p := by
  have hlow : p.toNat % 2 ^ 9 = 0 := by rw [← toNat_and_lowNine, h]; rfl
  have hlt := p.isLt
  apply BitVec.eq_of_toNat_eq
  simp only [Config.cmdPrefix, BitVec.toNat_shiftLeft, BitVec.toNat_setWidth, BitVec.extractLsb'_toNat,
    Nat.shiftLeft_eq, Nat.shiftRight_eq_div_pow]
  omega

/-- Settles O24: a `CMD_PREFIX` whose nine low bits are 0 is the one the built block carries, and any other is refused. -/
theorem onlyLegalPrefixesAreInstantiated : Obligations.OnlyLegalPrefixesAreInstantiated := by
  unfold Obligations.OnlyLegalPrefixesAreInstantiated
  intro p canFail
  constructor <;> intro h
  · exact ⟨State.resetWith ⟨p.extractLsb' 9 7, canFail⟩, by simp [instantiate, Config.legalPrefix, h], rfl,
      cmdPrefix_of_legal h canFail, rfl⟩
  · simp [instantiate, Config.legalPrefix, h]

/-! ### The fault answer (R6, 60_exceptions R121) -/

/-- Where an exchange is pending and the transport answers `fault`, FAULT_ENTRY makes the failing exchange and takes the
exception: the converse of `execFaultEntry_next`. -/
theorem execFaultEntry_of_fault {s : State} {b : Byte} (hb : xOut s = some b) (ha : s.answer = .fault) :
    execFaultEntry s = .next (s.exchange b).raiseTransportFault := by
  rcases frameOpen_of_xOut hb with hst | hst | hst <;> simp [execFaultEntry, hst, ha, hb]

/-- Settles O13: a block whose transport cannot fail reads every answer as its byte; for one that can, a raised `x_fault`
as the next answer is `fault`, and the fault entry then answers. -/
theorem onlyAFailingTransportAnswersFault : Obligations.OnlyAFailingTransportAnswersFault := by
  unfold Obligations.OnlyAFailingTransportAnswersFault
  intro s
  refine ⟨fun hc => by simp [answer_of_cannot_fail hc], fun hc => ?_⟩
  have ha : ({ s with replies := [⟨0#8, true⟩] } : State).answer = .fault := by
    simp [State.answer, State.nextReply, Reply.answer, hc]
  exact ⟨[⟨0#8, true⟩], ha, fun b hb => ⟨_, execFaultEntry_of_fault hb ha, rfl, rfl⟩⟩

/-! ### The four kinds of step (R11)

From an operation of a kind to the block's step on some lines, and back. -/

/-- A pending exchange that is answered `fault` in a step without `rst` takes the fault entry (41_transaction R102). -/
theorem atomicStep_of_fault {l : HostLines} {s : State} {b : Byte} (hl : l.rst = false) (hb : xOut s = some b)
    (ha : s.answer = .fault) : atomicStep l s = .next (s.exchange b).raiseTransportFault := by
  rw [← execFaultEntry_of_fault hb ha]
  rcases frameOpen_of_xOut hb with hst | hst | hst <;> simp [atomicStep, fetchLines, runFetched, exec, hl, hst, ha]

/-- In X1 the block's step without `rst` is exchange 1, whatever the answer: the fault entry is its fault path. -/
theorem atomicStep_of_x1 {l : HostLines} {s : State} {w : CommandWord} (hl : l.rst = false) (hst : s.st = .x1)
    (hw : s.cmd = some w) : atomicStep l s = exchange1 s := by
  cases ha : s.answer with
  | byte b => simp [atomicStep, fetchLines, runFetched, exec, execXchg1, hl, hst, ha, hw]
  | fault =>
    have hb : xOut s = some (cmdHigh w) := by simp [xOut, hst, hw]
    simp [atomicStep_of_fault hl hb ha, exchange1, hw, ha]

/-- In X2 it is exchange 2, whatever the answer. -/
theorem atomicStep_of_x2 {l : HostLines} {s : State} {w : CommandWord} (hl : l.rst = false) (hst : s.st = .x2)
    (hw : s.cmd = some w) : atomicStep l s = exchange2 s := by
  cases ha : s.answer with
  | byte b => simp [atomicStep, fetchLines, runFetched, exec, execXchg2, hl, hst, ha, hw]
  | fault =>
    have hb : xOut s = some (cmdLow w) := by simp [xOut, hst, hw]
    simp [atomicStep_of_fault hl hb ha, exchange2, hw, ha]

/-- In X3 it is exchange 3, whatever the answer. -/
theorem atomicStep_of_x3 {l : HostLines} {s : State} (hl : l.rst = false) (hst : s.st = .x3) :
    atomicStep l s = exchange3 s := by
  cases ha : s.answer with
  | byte b => simp [atomicStep, fetchLines, runFetched, exec, execXchg3, hl, hst, ha]
  | fault =>
    have hb : xOut s = some filler := by simp [xOut, hst]
    simp [atomicStep_of_fault hl hb ha, exchange3, ha]

/-- Every operation of a kind of R11 that has a next state is the block's step on some lines. -/
theorem atomicStep_of_exec {i : Instr} {s t : State} (hk : (stepKind i).isSome = true) (h : exec i s = .next t) :
    ∃ l, atomicStep l s = .next t := by
  cases i with
  | transact ch => cases hk
  | encode ch => cases hk
  | decode r1 r2 r3 => cases hk
  | accept ch =>
    obtain ⟨hst, -⟩ := execAccept_next h
    exact ⟨reqLines ch, by simpa [atomicStep, fetchLines, runFetched, reqLines, idleLines, hst] using h⟩
  | xchg1 c =>
    obtain ⟨hst, he⟩ := execXchg1_next h
    obtain ⟨w, hw, -⟩ := exchange1_next he
    exact ⟨idleLines, (atomicStep_of_x1 rfl hst hw).trans he⟩
  | xchg2 cc =>
    obtain ⟨hst, he⟩ := execXchg2_next h
    obtain ⟨w, hw, -⟩ := exchange2_next he
    exact ⟨idleLines, (atomicStep_of_x2 rfl hst hw).trans he⟩
  | xchg3 =>
    obtain ⟨hst, he⟩ := execXchg3_next h
    exact ⟨idleLines, (atomicStep_of_x3 rfl hst).trans he⟩
  | ack =>
    obtain ⟨hst, -⟩ := execAck_next h
    exact ⟨ackLines, by simpa [atomicStep, fetchLines, runFetched, ackLines, idleLines, hst] using h⟩
  | faultEntry =>
    obtain ⟨b, hb, ha, rfl⟩ := execFaultEntry_next h
    exact ⟨idleLines, atomicStep_of_fault rfl hb ha⟩
  | reset => exact ⟨rstLines, h⟩

/-- What the lines can select (41_transaction R102): reset exactly with `rst`, a request in IDLE, an acknowledge in DONE,
or else an exchange. -/
theorem fetchLines_run {l : HostLines} {s : State} {i : Instr} (h : fetchLines l s = .run i) :
    (l.rst = true ∧ i = .reset) ∨
    (l.rst = false ∧ ((s.st = .idle ∧ l.reqValid = true ∧ i = .accept l.reqCh) ∨
      (s.st = .done ∧ l.rspReady = true ∧ i = .ack) ∨ stepKind i = some .exchange)) := by
  cases hr : l.rst with
  | true =>
    simp only [fetchLines, hr, if_true] at h
    cases h
    exact .inl ⟨rfl, rfl⟩
  | false =>
    refine .inr ⟨rfl, ?_⟩
    cases hst : s.st with
    | idle =>
      simp only [fetchLines, hr, hst, Bool.false_eq_true, if_false] at h
      split at h <;> cases h
      exact .inl ⟨rfl, ‹_›, rfl⟩
    | done =>
      simp only [fetchLines, hr, hst, Bool.false_eq_true, if_false] at h
      split at h <;> cases h
      exact .inr (.inl ⟨rfl, ‹_›, rfl⟩)
    | x1 | x2 | x3 =>
      simp only [fetchLines, hr, hst, Bool.false_eq_true, if_false] at h
      split at h <;> cases h <;> exact .inr (.inr rfl)

/-- Every operation of the kind exchange puts the byte offered in the open frame on the wire, with its answer
(41_transaction R92 to R94, 60_exceptions R121). -/
theorem exec_exchange_wire {i : Instr} {s t : State} (hk : stepKind i = some .exchange) (h : exec i s = .next t) :
    ∃ b rest, xOut s = some b ∧ t.wire = s.wire ++ .xchg b s.answer :: rest := by
  cases i with
  | transact ch => cases hk
  | accept ch => cases hk
  | ack => cases hk
  | reset => cases hk
  | encode ch => cases hk
  | decode r1 r2 r3 => cases hk
  | xchg1 c =>
    obtain ⟨hst, he⟩ := execXchg1_next h
    obtain ⟨w, hw, ⟨_, rfl⟩ | ⟨_, _, rfl⟩⟩ := exchange1_next he <;>
      simp [xOut, hst, hw]
  | xchg2 cc =>
    obtain ⟨hst, he⟩ := execXchg2_next h
    obtain ⟨w, hw, ⟨_, rfl⟩ | ⟨_, _, rfl⟩⟩ := exchange2_next he <;>
      simp [xOut, hst, hw]
  | xchg3 =>
    obtain ⟨hst, he⟩ := execXchg3_next h
    obtain ⟨_, rfl⟩ | ⟨_, _, _, _, rfl⟩ := exchange3_next he <;>
      simp [xOut, hst]
  | faultEntry =>
    obtain ⟨b, hb, _, rfl⟩ := execFaultEntry_next h
    exact ⟨b, [.cs 1#1], hb, by simp⟩

/-- The step of the block, read as one of the kinds of R11 with its position, its lines and what it leaves on the wire. -/
theorem atomicStep_kinds {l : HostLines} {s t : State} (h : atomicStep l s = .next t) :
    ∃ i k, exec i s = .next t ∧ stepKind i = some k ∧
      (k = .accept → s.st = .idle ∧ t.st = .x1 ∧ l.reqValid = true) ∧
      (k = .exchange → frameOpen s.st ∧ ∃ b rest, xOut s = some b ∧ t.wire = s.wire ++ .xchg b s.answer :: rest) ∧
      (k = .acknowledge → s.st = .done ∧ t.st = .idle ∧ l.rspReady = true) ∧
      (k = .reset ↔ l.rst = true) := by
  obtain ⟨i, hf, _, he⟩ := atomicStep_next h
  obtain ⟨hr, rfl⟩ | ⟨hr, ⟨hst, hv, rfl⟩ | ⟨hst, hv, rfl⟩ | hk⟩ := fetchLines_run hf
  · exact ⟨.reset, .reset, he, rfl, by simp [hr]⟩
  · obtain ⟨_, _, _, rfl⟩ := execAccept_next he
    exact ⟨.accept l.reqCh, .accept, he, rfl, by simp [hst, hv, hr]⟩
  · obtain ⟨_, ha⟩ := execAck_next he
    obtain ⟨_, _, rfl⟩ := acknowledge_next ha
    exact ⟨.ack, .acknowledge, he, rfl, by simp [hst, hv, hr]⟩
  · obtain ⟨b, rest, hb, hw⟩ := exec_exchange_wire hk he
    exact ⟨i, .exchange, he, hk, by simp, fun _ => ⟨frameOpen_of_xOut hb, b, rest, hb, hw⟩, by simp, by simp [hr]⟩

/-! ### The rows -/

/-- No operation reads or writes the rows still to be driven (log 5). -/
theorem exec_host {i : Instr} {s t : State} (h : exec i s = .next t) : t.host = s.host := by
  refine exec_keeps (P := fun u => u.host = s.host) (fun _ _ hu _ => hu) ?_ ?_ ?_ ?_
    (fun _ _ hu _ _ => by simpa using hu) (fun _ hu => hu) (fun _ _ hu => hu) rfl h
  · intro u v hu _ he
    obtain ⟨_, _, ⟨_, rfl⟩ | ⟨_, _, rfl⟩⟩ := exchange1_next he <;> simpa using hu
  · intro u v hu _ he
    obtain ⟨_, _, ⟨_, rfl⟩ | ⟨_, _, rfl⟩⟩ := exchange2_next he <;> simpa using hu
  · intro u v hu _ he
    obtain ⟨_, rfl⟩ | ⟨_, _, _, _, rfl⟩ := exchange3_next he <;> simpa using hu
  · intro u v hu _ he
    obtain ⟨_, _, rfl⟩ := acknowledge_next he
    exact hu

theorem atomicStep_host {l : HostLines} {s t : State} (h : atomicStep l s = .next t) : t.host = s.host := by
  obtain ⟨_, _, _, he⟩ := atomicStep_next h
  exact exec_host he

/-- A block driven by lines alone steps on its next row, or on idle lines past the end. -/
theorem PortLevel.step_eq {s : State} (hp : PortLevel s) :
    ∃ l, s.host.headD (.lines idleLines) = .lines l ∧ step s = atomicStep l { s with host := s.host.tail } := by
  cases hh : s.host with
  | nil => exact ⟨idleLines, rfl, by simp [step, stepRows, hh]⟩
  | cons row rest =>
    obtain ⟨l, rfl⟩ := hp row (by simp [hh])
    exact ⟨l, rfl, step_of_lines hh⟩

/-- Settles O36: a step of the machine is one operation of a kind (`step_next`), which is the block's step on some lines
(`atomicStep_of_exec`); that step's kinds are `atomicStep_kinds`, and lines alone are used one row a step. -/
theorem stepsAreMadeOfTheFourKinds : Obligations.StepsAreMadeOfTheFourKinds := by
  unfold Obligations.StepsAreMadeOfTheFourKinds
  refine ⟨fun s t h => ?_, fun l s t h => atomicStep_kinds h, fun s t hp h => ?_⟩
  · obtain ⟨i, r, k, hk, he⟩ := step_next h
    obtain ⟨l, hl⟩ := atomicStep_of_exec hk he
    exact ⟨l, r, k, hl⟩
  · obtain ⟨l, hhead, heq⟩ := hp.step_eq
    have ha : atomicStep l { s with host := s.host.tail } = .next t := heq ▸ h
    have hhost : t.host = s.host.tail := atomicStep_host ha
    exact ⟨fun row hrow => hp row (List.mem_of_mem_tail (hhost ▸ hrow)), hhost, l, hhead, ha⟩

end Sys2Proof.Machine
end

section
/-! PROOFS. The statements of spec/10_state.md: the invariants of the registers (R34), what a step writes (R21, R22,
R28, R32), what it reads (R28), the transport's answers (R29), the outputs (R30) and the words placed for a step (R31;
log 12). -/

namespace Sys2Proof.Machine

/-! ### One move of the block -/

theorem xOut_of_x1 {s : State} (h : s.st = .x1) : xOut s = s.cmd.map cmdHigh := by
  simp [xOut, h]

theorem xOut_of_x2 {s : State} (h : s.st = .x2) : xOut s = s.cmd.map cmdLow := by
  simp [xOut, h]

theorem xOut_of_x3 {s : State} (h : s.st = .x3) : xOut s = some filler := by
  simp [xOut, h]

/-- Everything one step of the block can do, by its kind (00_scope R11): opening a frame, the byte path of each
exchange, the fault entry, the return to IDLE, and reset. -/
inductive Move (s : State) : StepKind → State → Prop where
  /-- 41_transaction R91. -/
  | opened (c : Channel) (hst : s.st = .idle) : Move s .accept (s.openFrame c)
  /-- R92, answered a byte. -/
  | sentHigh (w : CommandWord) (r1 : Byte) (hst : s.st = .x1) (hcmd : s.cmd = some w) (hans : s.answer = .byte r1) :
    Move s .exchange { s.exchange (cmdHigh w) with st := .x2 }
  /-- R93, answered a byte. -/
  | sentLow (w : CommandWord) (r2 : Byte) (hst : s.st = .x2) (hcmd : s.cmd = some w) (hans : s.answer = .byte r2) :
    Move s .exchange { s.exchange (cmdLow w) with hi := some (lowNibble r2), st := .x3 }
  /-- R94, answered a byte. -/
  | closed (n : Nibble) (r3 : Byte) (hst : s.st = .x3) (hhi : s.hi = some n) (hans : s.answer = .byte r3) :
    Move s .exchange ((s.exchange filler).closeFrame n r3)
  /-- 60_exceptions R121. -/
  | faulted (b : Byte) (hout : xOut s = some b) (hans : s.answer = .fault) :
    Move s .exchange (s.exchange b).raiseTransportFault
  /-- 41_transaction R96. -/
  | returned (r : Response) (hst : s.st = .done) (hresp : responseOf s = .ok r) :
    Move s .acknowledge { s with st := .idle, received := s.received ++ [r] }
  /-- 70_reset_and_hazards R140. -/
  | reset : Move s .reset s.resetBlock

theorem exchange1_move {s t : State} (hst : s.st = .x1) (h : exchange1 s = .next t) : Move s .exchange t := by
  obtain ⟨w, hw, ⟨ha, rfl⟩ | ⟨b, ha, rfl⟩⟩ := exchange1_next h
  · exact .faulted _ (by simp [xOut_of_x1 hst, hw]) ha
  · exact .sentHigh w b hst hw ha

theorem exchange2_move {s t : State} (hst : s.st = .x2) (h : exchange2 s = .next t) : Move s .exchange t := by
  obtain ⟨w, hw, ⟨ha, rfl⟩ | ⟨b, ha, rfl⟩⟩ := exchange2_next h
  · exact .faulted _ (by simp [xOut_of_x2 hst, hw]) ha
  · exact .sentLow w b hst hw ha

theorem exchange3_move {s t : State} (hst : s.st = .x3) (h : exchange3 s = .next t) : Move s .exchange t := by
  obtain ⟨ha, rfl⟩ | ⟨b, n, ha, hn, rfl⟩ := exchange3_next h
  · exact .faulted _ (xOut_of_x3 hst) ha
  · exact .closed n b hst hn ha

/-- An operation of a kind of 00_scope R11 that has a next state makes a move of that kind. -/
theorem exec_move {i : Instr} {k : StepKind} {s t : State} (hk : stepKind i = some k) (h : exec i s = .next t) :
    Move s k t := by
  cases i with
  | transact ch => cases hk
  | encode ch => cases hk
  | decode r1 r2 r3 => cases hk
  | accept ch =>
    cases hk
    obtain ⟨hst, c, _, rfl⟩ := execAccept_next h
    exact .opened c hst
  | xchg1 c =>
    cases hk
    obtain ⟨hst, he⟩ := execXchg1_next h
    exact exchange1_move hst he
  | xchg2 cc =>
    cases hk
    obtain ⟨hst, he⟩ := execXchg2_next h
    exact exchange2_move hst he
  | xchg3 =>
    cases hk
    obtain ⟨hst, he⟩ := execXchg3_next h
    exact exchange3_move hst he
  | ack =>
    cases hk
    obtain ⟨hst, he⟩ := execAck_next h
    obtain ⟨r, hr, rfl⟩ := acknowledge_next he
    exact .returned r hst hr
  | faultEntry =>
    cases hk
    obtain ⟨b, hb, ha, rfl⟩ := execFaultEntry_next h
    exact .faulted b hb ha
  | reset =>
    cases hk
    cases h
    exact .reset

/-- A step of the machine is one move, from a state that differs in the rows and the codec record alone (log 6,
log 10). -/
theorem step_move {s t : State} (h : step s = .next t) :
    ∃ k r c, Move { s with host := r, codecOut := c } k t := by
  obtain ⟨i, r, c, hk, he⟩ := step_next h
  obtain ⟨k, hk⟩ := Option.isSome_iff_exists.mp hk
  exact ⟨k, r, c, exec_move hk he⟩

/-- What every move keeps, and what the rows and the codec record do not touch, every step keeps. -/
theorem step_keeps {P : State → Prop} (hrows : ∀ s r c, P s → P { s with host := r, codecOut := c })
    (hmove : ∀ s k t, P s → Move s k t → P t) {s t : State} (hs : P s) (h : step s = .next t) : P t := by
  obtain ⟨k, r, c, hm⟩ := step_move h
  exact hmove _ k t (hrows s r c hs) hm

/-! ### The invariants (R34, 60_exceptions R122) -/

theorem frameOpen.ne_idle {p : FrameState} (h : frameOpen p) : p ≠ .idle := by
  rintro rfl
  simp [frameOpen] at h

theorem frameOpen.ne_done {p : FrameState} (h : frameOpen p) : p ≠ .done := by
  rintro rfl
  simp [frameOpen] at h

/-- The invariants of R34 speak of the block's registers and its parameters alone. -/
theorem Inv.inputs {s : State} (hs : Inv s) (r : List HostRow) (c : Option CodecResult) :
    Inv { s with host := r, codecOut := c } :=
  ⟨hs.csLow, hs.cmdHeld, hs.cmdWord, hs.hiHeld, hs.statusHeld, hs.sampleDecoded, hs.faultMarked⟩

/-- Every move keeps the invariants of R34. Where it goes to an open frame or to IDLE the clauses on X3 and DONE ask
nothing new; exchange 2 has captured the nibble that X3 asks for, exchange 3 decodes it, and the fault entry drops the
sample and sets the sticky bit. -/
theorem Inv.move {s t : State} {k : StepKind} (hs : Inv s) (hm : Move s k t) : Inv t := by
  have hcs := hs.csLow
  have hword := hs.cmdWord
  cases hm with
  | opened c hst => constructor <;> simp [frameOpen]
  | sentHigh w r1 hst hcmd hans =>
    have hmark := hs.faultMarked
    constructor <;> simp_all [frameOpen]
  | sentLow w r2 hst hcmd hans =>
    have hmark := hs.faultMarked
    constructor <;> simp_all [frameOpen]
  | closed n r3 hst hhi hans =>
    have hcmd := hs.cmdHeld (by simp [hst])
    constructor <;> simp_all [frameOpen]
  | faulted b hout hans =>
    have hcmd := hs.cmdHeld (frameOpen_of_xOut hout).ne_idle
    constructor <;> simp_all [frameOpen]
  | returned r hst hresp =>
    have hmark := hs.faultMarked
    constructor <;> simp_all [frameOpen]
  | reset => constructor <;> simp [frameOpen]

/-- Settles O26: every move keeps the invariants (`Inv.move`), and a step is one. -/
theorem everyStepKeepsTheStateInvariants : Obligations.EveryStepKeepsTheStateInvariants := by
  unfold Obligations.EveryStepKeepsTheStateInvariants
  intro s t hs h
  exact step_keeps (fun _ r c hu => hu.inputs r c) (fun _ _ _ hu hm => hu.move hm) hs h

/-- Every move keeps what a frame in progress holds: acceptance empties the data registers, exchange 1 writes none of
them, exchange 2 `HI` alone, and a fault leaves `LO` as the open frame held it. -/
theorem FrameInv.move {s t : State} {k : StepKind} (hs : FrameInv s) (hm : Move s k t) : FrameInv t := by
  cases hm with
  | opened c hst => constructor <;> simp
  | sentHigh w r1 hst hcmd hans =>
    have hhi := hs.beforeNibble (.inl hst)
    obtain ⟨hlo, hsample, hstatus⟩ := hs.openFrame (.inl hst)
    constructor <;> simp [hhi, hlo, hsample, hstatus]
  | sentLow w r2 hst hcmd hans =>
    obtain ⟨hlo, hsample, hstatus⟩ := hs.openFrame (.inr (.inl hst))
    constructor <;> simp [hlo, hsample, hstatus]
  | closed n r3 hst hhi hans => constructor <;> simp [frameOpen]
  | faulted b hout hans =>
    obtain ⟨hlo, -, -⟩ := hs.openFrame (frameOpen_of_xOut hout)
    constructor <;> simp [frameOpen, hlo]
  | returned r hst hresp => constructor <;> simp [frameOpen]
  | reset => constructor <;> simp [frameOpen]

/-- Settles O27: every move keeps what a frame in progress holds (`FrameInv.move`), and a step is one. -/
theorem everyStepKeepsTheFrameInvariants : Obligations.EveryStepKeepsTheFrameInvariants := by
  unfold Obligations.EveryStepKeepsTheFrameInvariants
  intro s t hs h
  exact step_keeps (fun _ _ _ hu => ⟨hu.beforeNibble, hu.openFrame, hu.afterFault⟩)
    (fun _ _ _ hu hm => hu.move hm) hs h

/-- Settles O25: at reset `ST` is IDLE and chip-select 1, the registers are empty and nothing has been driven or
taken. -/
theorem resetStateMeetsTheInvariants : Obligations.ResetStateMeetsTheInvariants := by
  unfold Obligations.ResetStateMeetsTheInvariants
  intro c
  refine ⟨?_, ?_, rfl, le_rfl, rfl, nofun⟩
  · constructor <;> simp [State.resetWith, frameOpen]
  · constructor <;> simp [State.resetWith, frameOpen]

/-! ### What a move writes (R21, R22, R28, R32) -/

/-- No move writes the parameters (R32). -/
theorem Move.cfg_eq {s t : State} {k : StepKind} (hm : Move s k t) : t.cfg = s.cfg := by
  cases hm <;> simp

/-- Settles O31: a step is a move, and no move writes the parameters. -/
theorem noStepWritesTheConfiguration : Obligations.NoStepWritesTheConfiguration := by
  unfold Obligations.NoStepWritesTheConfiguration
  intro s t h
  obtain ⟨k, r, c, hm⟩ := step_move h
  exact hm.cfg_eq

/-- `CMD` is written at acceptance and by reset only (R22). -/
theorem Move.cmd_eq {s t : State} {k : StepKind} (hm : Move s k t) (ha : k ≠ .accept) (hr : k ≠ .reset) :
    t.cmd = s.cmd := by
  cases hm with
  | opened c hst => exact absurd rfl ha
  | reset => exact absurd rfl hr
  | sentHigh w r1 hst hcmd hans => simp
  | sentLow w r2 hst hcmd hans => simp
  | closed n r3 hst hhi hans => simp
  | faulted b hout hans => simp
  | returned r hst hresp => rfl

/-- An operation is TRANSACT, or makes a move of its kind, or is one of the codec, which write their record alone
(40_codec; log 10). -/
theorem exec_next {i : Instr} {s t : State} (h : exec i s = .next t) :
    (∃ ch, i = .transact ch) ∨ (∃ k, stepKind i = some k ∧ Move s k t) ∨
      ∃ c, t = { s with codecOut := c } := by
  cases i with
  | transact ch => exact .inl ⟨ch, rfl⟩
  | encode ch =>
    simp only [exec, execEncode] at h
    split at h <;> cases h
    exact .inr (.inr ⟨_, rfl⟩)
  | decode r1 r2 r3 =>
    cases h
    exact .inr (.inr ⟨_, rfl⟩)
  | accept _ | xchg1 _ | xchg2 _ | xchg3 | ack | faultEntry | reset => exact .inr (.inl ⟨_, rfl, exec_move rfl h⟩)

/-- The operation of kind acceptance is ACCEPT. -/
theorem eq_accept_of_stepKind {i : Instr} (h : stepKind i = some .accept) : ∃ ch, i = .accept ch := by
  cases i <;> cases h
  exact ⟨_, rfl⟩

/-- The operation of kind reset is RESET. -/
theorem eq_reset_of_stepKind {i : Instr} (h : stepKind i = some .reset) : i = .reset := by
  cases i <;> cases h
  rfl

/-- Settles O32: of the moves only acceptance and reset write `CMD`, and the codec writes no register. -/
theorem commandIsWrittenAtAcceptanceOnly : Obligations.CommandIsWrittenAtAcceptanceOnly := by
  unfold Obligations.CommandIsWrittenAtAcceptanceOnly
  intro i s t h hacc htra hres
  obtain ⟨ch, rfl⟩ | ⟨k, hk, hm⟩ | ⟨c, rfl⟩ := exec_next h
  · exact absurd rfl (htra ch)
  · refine hm.cmd_eq ?_ ?_
    · rintro rfl
      obtain ⟨ch, rfl⟩ := eq_accept_of_stepKind hk
      exact hacc ch rfl
    · rintro rfl
      exact hres (eq_reset_of_stepKind hk)
  · rfl

/-- From each frame position a move other than reset goes to the next one, or from an exchange to DONE (R21's column
`next`, 41_transaction R100). -/
theorem Move.st_advances {s t : State} {k : StepKind} (hm : Move s k t) (hr : k ≠ .reset) :
    (s.st = .idle → t.st = .x1) ∧
    (s.st = .x1 → t.st = .x2 ∨ t.st = .done) ∧
    (s.st = .x2 → t.st = .x3 ∨ t.st = .done) ∧
    (s.st = .x3 → t.st = .done) ∧
    (s.st = .done → t.st = .idle) := by
  cases hm with
  | reset => exact absurd rfl hr
  | opened c hst => simp [hst]
  | sentHigh w r1 hst hcmd hans => simp [hst]
  | sentLow w r2 hst hcmd hans => simp [hst]
  | closed n r3 hst hhi hans => simp [hst]
  | returned r hst hresp => simp [hst]
  | faulted b hout hans =>
    obtain hst | hst | hst := frameOpen_of_xOut hout <;> simp [hst]

/-- Settles O35: each operation left is a move other than reset. -/
theorem framePositionsAdvanceInOrder : Obligations.FramePositionsAdvanceInOrder := by
  unfold Obligations.FramePositionsAdvanceInOrder
  intro i s t h hres htra henc hdec
  cases i with
  | transact ch => exact absurd rfl (htra ch)
  | encode ch => exact absurd rfl (henc ch)
  | decode r1 r2 r3 => exact absurd rfl (hdec r1 r2 r3)
  | reset => exact absurd rfl hres
  | accept _ | xchg1 _ | xchg2 _ | xchg3 | ack | faultEntry => exact (exec_move rfl h).st_advances nofun

/-! ### `FAULT_SEEN` (R28) -/

/-- What an operation can do to the sticky bit: leave it, or set it together with the status TRANSPORT_FAULT. -/
def FaultSeenFrom (s t : State) : Prop :=
  t.faultSeen = s.faultSeen ∨ (t.faultSeen = true ∧ t.status = some .transportFault)

theorem Move.faultSeenFrom {s t : State} {k : StepKind} (hm : Move s k t) (hr : k ≠ .reset) : FaultSeenFrom s t := by
  cases hm with
  | reset => exact absurd rfl hr
  | faulted b hout hans => exact .inr ⟨rfl, rfl⟩
  | opened c hst => exact .inl rfl
  | sentHigh w r1 hst hcmd hans => exact .inl (by simp)
  | sentLow w r2 hst hcmd hans => exact .inl (by simp)
  | closed n r3 hst hhi hans => exact .inl (by simp)
  | returned r hst hresp => exact .inl rfl

/-- An exchange that leaves its frame open leaves the sticky bit. -/
theorem Move.faultSeen_eq_of_ne_done {s t : State} (hm : Move s .exchange t) (hst : t.st ≠ .done) :
    t.faultSeen = s.faultSeen := by
  cases hm with
  | faulted b hout hans => exact absurd rfl hst
  | closed n r3 hst' hhi hans => exact absurd rfl hst
  | sentHigh w r1 hst hcmd hans => simp
  | sentLow w r2 hst hcmd hans => simp

/-- What an opened frame holds and each of its exchanges keeps, TRANSACT holds where it takes its response
(41_transaction R90). -/
theorem execTransact_keeps {P : State → Prop} {ch : Nat} {s t : State} (hopen : ∀ c, P (s.openFrame c))
    (hexch : ∀ u v, P u → frameOpen u.st → Move u .exchange v → P v) (h : execTransact ch s = .next t) :
    ∃ u, P u ∧ Move u .acknowledge t := by
  obtain ⟨c, s2, s3, s4, _, _, e1, e2, e3, e4⟩ := execTransact_next h
  have p2 : P s2 := hexch _ _ (hopen c) (.inl rfl) (exchange1_move rfl e1)
  have ⟨p3, d3⟩ : P s3 ∧ (s3.st = .x3 ∨ s3.st = .done) := by
    obtain ⟨q, e⟩ | ⟨q, rfl⟩ := whileAt_next e2
    · exact ⟨hexch _ _ p2 (.inr (.inl q)) (exchange2_move q e), exchange2_st e⟩
    · exact ⟨p2, .inr ((exchange1_st e1).resolve_left q)⟩
  have ⟨p4, d4⟩ : P s4 ∧ s4.st = .done := by
    obtain ⟨q, e⟩ | ⟨q, rfl⟩ := whileAt_next e3
    · exact ⟨hexch _ _ p3 (.inr (.inr q)) (exchange3_move q e), exchange3_st e⟩
    · exact ⟨p3, d3.resolve_left q⟩
  obtain ⟨r, hr, rfl⟩ := acknowledge_next e4
  exact ⟨s4, p4, .returned r d4 hr⟩

/-- What the frame of a TRANSACT from `s` holds of the sticky bit: only the exchange that ends it can set it. -/
def FrameFaultSeen (s u : State) : Prop := FaultSeenFrom s u ∧ (u.st ≠ .done → u.faultSeen = s.faultSeen)

theorem FrameFaultSeen.exchange {s u v : State} (hu : FrameFaultSeen s u) (hop : frameOpen u.st)
    (hm : Move u .exchange v) : FrameFaultSeen s v := by
  have heq : u.faultSeen = s.faultSeen := hu.2 hop.ne_done
  exact ⟨(hm.faultSeenFrom nofun).imp_left (·.trans heq), fun hv => (hm.faultSeen_eq_of_ne_done hv).trans heq⟩

/-- TRANSACT as a whole leaves the sticky bit, or sets it with the status it leaves. -/
theorem execTransact_faultSeenFrom {ch : Nat} {s t : State} (h : execTransact ch s = .next t) : FaultSeenFrom s t := by
  obtain ⟨u, ⟨hu, -⟩, hm⟩ := execTransact_keeps (P := FrameFaultSeen s) (fun _ => ⟨.inl rfl, fun _ => rfl⟩)
    (fun _ _ hu hop hm => hu.exchange hop hm) h
  cases hm with
  | returned r hst hresp => exact hu

/-- Settles O33: every operation but reset leaves the sticky bit, or sets it with the status TRANSPORT_FAULT. -/
theorem faultSeenIsSticky : Obligations.FaultSeenIsSticky := by
  unfold Obligations.FaultSeenIsSticky
  intro i s t h
  by_cases hi : i = .reset
  · subst hi
    cases h
    simp
  · have hfrom : FaultSeenFrom s t := by
      obtain ⟨ch, rfl⟩ | ⟨k, hk, hm⟩ | ⟨c, rfl⟩ := exec_next h
      · exact execTransact_faultSeenFrom h
      · refine hm.faultSeenFrom ?_
        rintro rfl
        exact hi (eq_reset_of_stepKind hk)
      · exact .inl rfl
    obtain heq | ⟨hset, hstatus⟩ := hfrom
    · rw [heq]
      exact ⟨.inl, fun h0 h1 => absurd (h0.symm.trans h1) nofun⟩
    · exact ⟨fun _ => .inl hset, fun _ _ => hstatus⟩

/-! ### Answers (R29, 00_scope R10) -/

theorem takeReply_draws (s : State) : s.takeReply.draws = if s.replies = [] then s.draws + 1 else s.draws := by
  cases h : s.replies <;> simp [State.takeReply, h]

/-- An exchange uses one answer, whatever it is and whatever the exchange then does. -/
theorem Move.takes_reply {s t : State} (hm : Move s .exchange t) :
    t.replies = s.takeReply.replies ∧ t.draws = s.takeReply.draws := by
  cases hm <;> simp

/-- Settles O15: the answer used is the listed one or the draw (`takeReply`), and each operation of the kind exchange
uses it once (`Move.takes_reply`). -/
theorem eachExchangeUsesOneAnswer : Obligations.EachExchangeUsesOneAnswer := by
  unfold Obligations.EachExchangeUsesOneAnswer
  intro s
  refine ⟨fun out r rest hr => ?_, fun out hr => ?_, fun c cc t h => ?_⟩
  · simp [State.exchange, State.takeReply, State.answer, State.nextReply, Reply.answer, hr]
  · simp [State.exchange, State.takeReply, State.answer, State.nextReply, Reply.answer, hr]
  · have hm : Move s .exchange t := by
      obtain h | h | h | h := h <;> exact exec_move rfl h
    obtain ⟨hr, hd⟩ := hm.takes_reply
    exact ⟨hr.trans s.takeReply_replies, hd.trans (takeReply_draws s)⟩

/-! ### Outputs and codes (R21, R30) -/

/-- Settles O47, output by output; `x_out` by the frame position. -/
theorem outputsAreTheirFunctions : Obligations.OutputsAreTheirFunctions := by
  unfold Obligations.OutputsAreTheirFunctions
  intro s
  refine ⟨by simp [reqReady], by simp [rspValid], fun h => if_pos h, fun h => if_neg h,
    fun hst hok => if_pos ⟨hst, hok⟩, fun h => if_neg h, rfl, xOut_of_x1, xOut_of_x2, xOut_of_x3, fun h => ?_⟩
  exact Option.eq_none_iff_forall_ne_some.mpr fun b hb => h (frameOpen_of_xOut hb)

/-- Settles O51: five positions and eight codes, each looked at. -/
theorem framePositionCodes : Obligations.FramePositionCodes := by
  unfold Obligations.FramePositionCodes
  refine ⟨rfl, rfl, rfl, rfl, rfl, fun p => ?_, by decide⟩
  cases p <;> rfl

/-! ### What no step reads (R28; log 10) -/

/-- The state with `FAULT_SEEN` and the records blotted out. -/
def State.masked (s : State) : State := { s with faultSeen := false, wire := [], received := [], codecOut := none }

/-- A result with its next state masked; a stop is what it is. -/
def maskedResult : Result → Result
  | .next s => .next s.masked
  | .fault e => .fault e
  | .refused e => .refused e

/-- An operation that does not see what `masked` blots out: R28's "No rule reads it", and log 10. -/
def Blind (f : State → Result) : Prop := ∀ s, maskedResult (f s) = maskedResult (f s.masked)

@[simp] theorem masked_st (s : State) : s.masked.st = s.st := rfl
@[simp] theorem masked_cmd (s : State) : s.masked.cmd = s.cmd := rfl
@[simp] theorem masked_hi (s : State) : s.masked.hi = s.hi := rfl
@[simp] theorem masked_answer (s : State) : s.masked.answer = s.answer := rfl
@[simp] theorem masked_xOut (s : State) : xOut s.masked = xOut s := rfl
@[simp] theorem masked_responseOf (s : State) : responseOf s.masked = responseOf s := rfl
@[simp] theorem maskedResult_next (s : State) : maskedResult (.next s) = .next s.masked := rfl

theorem maskedResult_eq_next {o : Result} {v : State} :
    maskedResult o = .next v ↔ ∃ u, o = .next u ∧ u.masked = v := by
  cases o <;> simp [maskedResult]

theorem maskedResult_eq_fault {o : Result} {e : Fault} : maskedResult o = .fault e ↔ o = .fault e := by
  cases o <;> simp [maskedResult]

theorem maskedResult_eq_refused {o : Result} {e : Refusal} : maskedResult o = .refused e ↔ o = .refused e := by
  cases o <;> simp [maskedResult]

theorem masked_exchange (b : Byte) (s : State) : (s.exchange b).masked = (s.masked.exchange b).masked := by
  cases h : s.replies <;> simp [State.masked, State.exchange, State.takeReply, h]

/-- An update after an exchange sees no more than the update itself. -/
theorem masked_after_exchange {f : State → State} (hf : ∀ u, (f u).masked = (f u.masked).masked) (b : Byte)
    (s : State) : (f (s.exchange b)).masked = (f (s.masked.exchange b)).masked := by
  rw [hf, masked_exchange, ← hf]

theorem masked_raise_exchange (b : Byte) (s : State) :
    (s.exchange b).raiseTransportFault.masked = (s.masked.exchange b).raiseTransportFault.masked :=
  masked_after_exchange (f := State.raiseTransportFault) (fun _ => rfl) b s

theorem Blind.congr {f : State → Result} (hf : Blind f) {s t : State} (h : s.masked = t.masked) :
    maskedResult (f s) = maskedResult (f t) := by
  rw [hf s, hf t, h]

theorem Blind.andThen {f g : State → Result} (hf : Blind f) (hg : Blind g) :
    Blind fun s => Machine.andThen (f s) g := by
  intro s
  have h := (hf s).symm
  cases hs : f s with
  | next u =>
    rw [hs, maskedResult_next, maskedResult_eq_next] at h
    obtain ⟨v, hv, hvu⟩ := h
    simp only [hs, hv]
    exact hg.congr hvu.symm
  | fault e =>
    rw [hs] at h
    simp only [hs, maskedResult_eq_fault.mp h, Machine.andThen]
  | refused e =>
    rw [hs] at h
    simp only [hs, maskedResult_eq_refused.mp h, Machine.andThen]

theorem blind_exchange1 : Blind exchange1 := by
  intro s
  cases hc : s.cmd with
  | none => simp [exchange1, hc, maskedResult]
  | some w =>
    cases ha : s.answer with
    | fault => simp [exchange1, hc, ha, masked_raise_exchange (cmdHigh w) s]
    | byte b => simpa [exchange1, hc, ha] using masked_after_exchange (f := ({ · with st := .x2 })) (fun _ => rfl) _ s

theorem blind_exchange2 : Blind exchange2 := by
  intro s
  cases hc : s.cmd with
  | none => simp [exchange2, hc, maskedResult]
  | some w =>
    cases ha : s.answer with
    | fault => simp [exchange2, hc, ha, masked_raise_exchange (cmdLow w) s]
    | byte b =>
      simpa [exchange2, hc, ha] using
        masked_after_exchange (f := ({ · with hi := some (lowNibble b), st := .x3 })) (fun _ => rfl) _ s

theorem blind_exchange3 : Blind exchange3 := by
  intro s
  cases ha : s.answer with
  | fault => simp [exchange3, ha, masked_raise_exchange filler s]
  | byte b =>
    cases hh : s.hi with
    | none => simp [exchange3, ha, hh, maskedResult]
    | some n =>
      simpa [exchange3, ha, hh] using masked_after_exchange (f := State.closeFrame n b) (fun _ => rfl) _ s

theorem blind_acknowledge : Blind acknowledge := by
  intro s
  cases hr : responseOf s with
  | error r => simp [acknowledge, hr, maskedResult]
  | ok r =>
    rw [acknowledge, acknowledge, masked_responseOf, hr]
    rfl

/-- A choice between two operations by what is not masked. -/
theorem Blind.ite {p : State → Prop} [DecidablePred p] (hp : ∀ s, p s.masked ↔ p s) {f g : State → Result}
    (hf : Blind f) (hg : Blind g) : Blind fun s => if p s then f s else g s := by
  intro s
  by_cases h : p s
  · simpa [h, hp] using hf s
  · simpa [h, hp] using hg s

/-- An operation with the guard of its frame position. -/
theorem Blind.guarded {f : State → Result} (hf : Blind f) (p : FrameState) :
    Blind fun s => if s.st = p then f s else .fault (.notEnabled s.st) :=
  Blind.ite (fun _ => .rfl) hf (fun _ => rfl)

theorem Blind.whileAt {f : State → Result} (hf : Blind f) (p : FrameState) : Blind (whileAt p f) :=
  Blind.ite (fun _ => .rfl) hf fun _ => rfl

theorem blind_openFrame (c : Channel) : Blind fun s => .next (s.openFrame c) := fun _ => rfl

theorem blind_execTransact (ch : Nat) : Blind (execTransact ch) := by
  unfold execTransact
  refine Blind.guarded ?_ .idle
  cases channelOf ch with
  | none => exact fun _ => rfl
  | some c =>
    exact ((blind_openFrame c).andThen blind_exchange1).andThen
      ((blind_exchange2.whileAt .x2).andThen ((blind_exchange3.whileAt .x3).andThen blind_acknowledge))

theorem blind_execAccept (ch : Nat) : Blind (execAccept ch) := by
  unfold execAccept
  refine Blind.guarded ?_ .idle
  cases channelOf ch with
  | none => exact fun _ => rfl
  | some c => exact blind_openFrame c

theorem blind_execXchg1 (c : BitVec 1) : Blind (execXchg1 c) :=
  Blind.guarded (Blind.ite (fun _ => .rfl) blind_exchange1 fun _ => rfl) .x1

theorem blind_execXchg2 (cc : BitVec 2) : Blind (execXchg2 cc) :=
  Blind.guarded (Blind.ite (fun _ => .rfl) blind_exchange2 fun _ => rfl) .x2

theorem blind_execFaultEntry : Blind execFaultEntry := by
  intro s
  cases ha : s.answer with
  | byte r => simp only [execFaultEntry, masked_st, masked_answer, ha]
  | fault =>
    cases hout : xOut s with
    | none => simp only [execFaultEntry, masked_st, masked_answer, masked_xOut, ha, hout]
    | some b =>
      rw [execFaultEntry_of_fault hout ha, execFaultEntry_of_fault (s := s.masked) hout ha]
      exact congrArg Host.Outcome.next (masked_raise_exchange b s)

theorem blind_exec (i : Instr) : Blind (exec i) := by
  cases i with
  | transact ch => exact blind_execTransact ch
  | accept ch => exact blind_execAccept ch
  | xchg1 c => exact blind_execXchg1 c
  | xchg2 cc => exact blind_execXchg2 cc
  | xchg3 => exact blind_exchange3.guarded .x3
  | ack => exact blind_acknowledge.guarded .done
  | faultEntry => exact blind_execFaultEntry
  | reset => exact fun _ => rfl
  | encode ch =>
    intro s
    simp only [exec, execEncode]
    cases channelOf ch <;> rfl
  | decode r1 r2 r3 => exact fun _ => rfl

theorem blind_atomicStep (l : HostLines) : Blind (atomicStep l) := by
  intro s
  have hf : fetchLines l s.masked = fetchLines l s := rfl
  unfold atomicStep
  rw [hf]
  cases fetchLines l s with
  | run i => exact blind_exec i s
  | fault e => rfl
  | refused e => rfl

/-- The rows left to drive are no record: an operation on them is as blind as the operation. -/
theorem Blind.rows {f : State → Result} (hf : Blind f) (r : List HostRow) : Blind fun s => f { s with host := r } :=
  fun s => hf { s with host := r }

theorem blind_wordStep (i : Instr) (rest : List HostRow) {after : State → Result} (ha : Blind after) :
    Blind (wordStep i rest after) := by
  cases i with
  | transact ch => exact (blind_exec (.accept ch)).rows (.awaiting :: rest)
  | encode ch => exact (blind_exec (.encode ch)).andThen ha
  | decode r1 r2 r3 => exact (blind_exec (.decode r1 r2 r3)).andThen ha
  | accept ch => exact (blind_exec (.accept ch)).rows rest
  | xchg1 c => exact (blind_exec (.xchg1 c)).rows rest
  | xchg2 cc => exact (blind_exec (.xchg2 cc)).rows rest
  | xchg3 => exact (blind_exec .xchg3).rows rest
  | ack => exact (blind_exec .ack).rows rest
  | faultEntry => exact (blind_exec .faultEntry).rows rest
  | reset => exact (blind_exec .reset).rows rest

theorem blind_stepRows (rows : List HostRow) : Blind (stepRows rows) := by
  induction rows with
  | nil => exact (blind_atomicStep idleLines).rows []
  | cons row rest ih =>
    cases row with
    | lines l => exact (blind_atomicStep l).rows rest
    | awaiting =>
      exact Blind.ite (fun _ => .rfl) ((blind_atomicStep ackLines).rows rest)
        ((blind_atomicStep idleLines).rows (.awaiting :: rest))
    | word w =>
      intro s
      have hf : fetchWord w s.masked = fetchWord w s := rfl
      simp only [stepRows, hf]
      cases fetchWord w s with
      | run i => exact blind_wordStep i rest ih s
      | fault e => rfl
      | refused e => rfl

/-- States that agree but for what is masked. -/
theorem eq_of_masked_eq {s t : State} (h : s.masked = t.masked) :
    t = { s with faultSeen := t.faultSeen, wire := t.wire, received := t.received, codecOut := t.codecOut } := by
  obtain ⟨⟩ := s
  obtain ⟨⟩ := t
  simp_all [State.masked]

/-- Settles O34: a step is blind to what is masked (`blind_stepRows`), so the two steps have the same outcome but for
it. -/
theorem faultSeenAndRecordsAreNeverRead : Obligations.FaultSeenAndRecordsAreNeverRead := by
  unfold Obligations.FaultSeenAndRecordsAreNeverRead
  intro s b w r k
  have hsame : maskedResult (step { s with faultSeen := b, wire := w, received := r, codecOut := k }) =
      maskedResult (step s) := (blind_stepRows s.host).congr rfl
  refine ⟨fun t h => ?_, fun e h => ?_, fun e h => ?_⟩
  · rw [h, maskedResult_next, maskedResult_eq_next] at hsame
    obtain ⟨u, hu, hut⟩ := hsame
    exact ⟨_, _, _, _, hu.trans (congrArg _ (eq_of_masked_eq hut.symm))⟩
  · rw [h] at hsame
    exact maskedResult_eq_fault.mp hsame
  · rw [h] at hsame
    exact maskedResult_eq_refused.mp hsame

/-! ### Placed words (log 6, log 12) -/

/-- What decodes is well formed: a channel has been looked at (60_exceptions R124). -/
theorem wf_of_decode {c : Config} {f : Format} {w : Nat} {i : Instr} (h : decode c f w = .ok i) : i.wf = true := by
  cases f with
  | hreqTransact | hreqAccept =>
    simp only [decode, decodeChannel] at h
    split at h <;> cases h
    exact decide_eq_true ‹_›
  | tx1 | tx2 | tx3 | hack | rspFault | rst =>
    simp only [decode, decodeTx1, decodeTx2, decodeTx3, decodeOne] at h
    repeat' split at h
    all_goals cases h
    all_goals rfl
  | cmd =>
    simp only [decode, decodeCmd] at h
    repeat' split at h
    all_goals cases h
    exact decide_eq_true (BitVec.isLt _)
  | rspFrame =>
    simp only [decode, decodeRsp] at h
    split at h <;> cases h
    rfl

/-- The family of round trips, one lemma for every instruction. -/
theorem decode_encode_of_wf (c : Config) {i : Instr} (h : i.wf = true) :
    decode c (encode c i).format (encode c i).bits = .ok i := by
  have hall : Laws.RoundTrip.Statement i := by
    cases i with
    | transact ch => exact Laws.RoundTrip.transact ch
    | accept ch => exact Laws.RoundTrip.accept ch
    | xchg1 b => exact Laws.RoundTrip.xchg1 b
    | xchg2 cc => exact Laws.RoundTrip.xchg2 cc
    | xchg3 => exact Laws.RoundTrip.xchg3
    | ack => exact Laws.RoundTrip.ack
    | faultEntry => exact Laws.RoundTrip.faultEntry
    | reset => exact Laws.RoundTrip.reset
    | encode ch => exact Laws.RoundTrip.encode ch
    | decode r1 r2 r3 => exact Laws.RoundTrip.decode r1 r2 r3
  exact hall c h

theorem wf_of_decodeTableWord {nbits w : Nat} {i : Instr} (h : decodeTableWord nbits w = some i) : i.wf = true := by
  unfold decodeTableWord at h
  split at h
  · cases h
  · split at h <;> cases h
    exact wf_of_decode ‹_›

theorem withFetchWord_of_decode {nbits w : Nat} {i : Instr} (h : decodeTableWord nbits w = some i) (s : State) :
    s.withFetchWord nbits w = placeInstr i s := by
  simp [State.withFetchWord, placeWord, h]

/-- Placing keeps `CMD_PREFIX`; FAULT_ENTRY alone needs a transport that can fail. -/
@[simp] theorem placeFor_prefixTop (i : Instr) (s : State) : (placeFor i s).cfg.prefixTop = s.cfg.prefixTop := by
  cases i <;> rfl

/-- The step of a state with an instruction placed is that of its word. -/
theorem step_placeInstr {i : Instr} (h : i.wf = true) (s : State) :
    step (placeInstr i s) = wordStep i (placeFor i s).host (stepRows (placeFor i s).host) (placeInstr i s) :=
  step_of_word rfl ((decode_congr (placeFor_prefixTop i s) _ _).trans (decode_encode_of_wf _ h))

/-- An operation that is one step is run at its placed position. -/
theorem step_placeInstr_of_stepKind {i : Instr} (h : i.wf = true) (hk : stepKind i ≠ none) (s : State) :
    step (placeInstr i s) = exec i (placeFor i s) := by
  rw [step_placeInstr h]
  cases i with
  | transact ch => exact absurd rfl hk
  | encode ch => exact absurd rfl hk
  | decode r1 r2 r3 => exact absurd rfl hk
  | accept _ | xchg1 _ | xchg2 _ | xchg3 | ack | faultEntry | reset => rfl

/-- Bit 8 of a command word is the channel's bit 2 (40_codec R81). -/
theorem tx1Free_commandWord (c : Config) (ch : Channel) : tx1Free (commandWord c ch) = ch.extractLsb' 2 1 := by
  ext i hi
  obtain rfl : i = 0 := by omega
  simp [tx1Free, commandWord, Config.cmdPrefix]

/-- Bits [7:6] of a command word are the channel's bits [1:0]. -/
theorem tx2Free_commandWord (c : Config) (ch : Channel) : tx2Free (commandWord c ch) = ch.extractLsb' 0 2 := by
  ext i hi
  have h9 : 6 + i < 9 := by omega
  have h16 : 6 + i < 16 ∧ i < 16 := by omega
  simp [tx2Free, commandWord, Config.cmdPrefix, h9, h16]

theorem channelOf_of_lt {ch : Nat} (h : ch < 8) : channelOf ch = some (BitVec.ofNat 3 ch) :=
  channelOf_eq_some.mpr ⟨h, rfl⟩

/-- At its placed position every operation has a next state. -/
theorem exec_placeFor_next {i : Instr} (h : i.wf = true) (s : State) : ∃ t, exec i (placeFor i s) = .next t := by
  cases i with
  | transact ch =>
    have hch := channelOf_of_lt (of_decide_eq_true h)
    simp only [exec, execTransact, hch]
    exact ⟨_, rfl⟩
  | accept ch =>
    have hch := channelOf_of_lt (of_decide_eq_true h)
    simp only [exec, execAccept, hch]
    exact ⟨_, rfl⟩
  | encode ch =>
    have hch := channelOf_of_lt (of_decide_eq_true h)
    simp only [exec, execEncode, hch]
    exact ⟨_, rfl⟩
  | xchg1 c =>
    have hfree : tx1Free (commandWord s.cfg (c.setWidth 3 <<< 2)) = c := by
      rw [tx1Free_commandWord]
      revert c
      decide
    simp only [exec, execXchg1, placeFor, Option.all_some, hfree, beq_self_eq_true]
    exact ⟨_, rfl⟩
  | xchg2 cc =>
    have hfree : tx2Free (commandWord s.cfg (cc.setWidth 3)) = cc := by
      rw [tx2Free_commandWord]
      revert cc
      decide
    simp only [exec, execXchg2, placeFor, Option.all_some, hfree, beq_self_eq_true]
    exact ⟨_, rfl⟩
  | xchg3 | ack | faultEntry | reset | decode _ _ _ => exact ⟨_, rfl⟩

/-- A placed TRANSACT begins with its acceptance, and then stands as awaited (log 6). -/
theorem step_placeInstr_transact {ch : Nat} (h : ch < 8) (s : State) :
    step (placeInstr (.transact ch) s) =
      .next ({ placeFor (.transact ch) s with host := .awaiting :: s.host }.openFrame (BitVec.ofNat 3 ch)) := by
  rw [step_placeInstr (by simpa [Instr.wf] using h)]
  simp only [wordStep, exec, execAccept, channelOf_of_lt h]
  rfl

/-- While a TRANSACT is awaited in an open frame, the step is the block's own with nothing driven (log 6). -/
theorem step_of_awaiting {s : State} {rest : List HostRow} (hh : s.host = .awaiting :: rest) (hst : s.st ≠ .done) :
    step s = atomicStep idleLines s := by
  have hs : { s with host := .awaiting :: rest } = s := by rw [← hh]
  rw [step, hh, stepRows, if_neg hst, hs]

/-- In DONE the awaiting host takes the response, and its row is used. -/
theorem step_of_awaiting_done {s : State} {rest : List HostRow} (hh : s.host = .awaiting :: rest) (hst : s.st = .done) :
    step s = exec .ack { s with host := rest } := by
  rw [step, hh, stepRows, if_pos hst]
  simp [atomicStep, fetchLines, runFetched, ackLines, idleLines, hst]

/-- Exchange 1 of an awaited TRANSACT, answered a byte, and the steps after it. -/
theorem runSteps_awaiting_x1 {n : Nat} {s : State} {rest : List HostRow} {w : CommandWord} {r1 : Byte}
    (hh : s.host = .awaiting :: rest) (hst : s.st = .x1) (hcmd : s.cmd = some w) (ha : s.answer = .byte r1) :
    runSteps (n + 1) s = runSteps n { s.exchange (cmdHigh w) with st := .x2 } := by
  rw [runSteps, step_of_awaiting hh (by simp [hst]), atomicStep_of_x1 rfl hst hcmd]
  simp [exchange1, hcmd, ha, andThen]

/-- Exchange 2, answered a byte. -/
theorem runSteps_awaiting_x2 {n : Nat} {s : State} {rest : List HostRow} {w : CommandWord} {r2 : Byte}
    (hh : s.host = .awaiting :: rest) (hst : s.st = .x2) (hcmd : s.cmd = some w) (ha : s.answer = .byte r2) :
    runSteps (n + 1) s = runSteps n { s.exchange (cmdLow w) with hi := some (lowNibble r2), st := .x3 } := by
  rw [runSteps, step_of_awaiting hh (by simp [hst]), atomicStep_of_x2 rfl hst hcmd]
  simp [exchange2, hcmd, ha, andThen]

/-- Exchange 3, answered a byte. -/
theorem runSteps_awaiting_x3 {n : Nat} {s : State} {rest : List HostRow} {b : Nibble} {r3 : Byte}
    (hh : s.host = .awaiting :: rest) (hst : s.st = .x3) (hhi : s.hi = some b) (ha : s.answer = .byte r3) :
    runSteps (n + 1) s = runSteps n ((s.exchange filler).closeFrame b r3) := by
  rw [runSteps, step_of_awaiting hh (by simp [hst]), atomicStep_of_x3 rfl hst]
  simp [exchange3, hhi, ha, andThen]

/-- The five steps of a placed TRANSACT, whose three answers are listed as bytes (41_transaction R90). -/
theorem runSteps_placeInstr_transact {ch : Nat} (h : ch < 8) (s : State) :
    runSteps 5 (placeInstr (.transact ch) s) = exec (.transact ch) (placeFor (.transact ch) s) := by
  calc runSteps 5 (placeInstr (.transact ch) s)
    _ = runSteps 4 ({ placeFor (.transact ch) s with host := .awaiting :: s.host }.openFrame (BitVec.ofNat 3 ch)) := by
      rw [runSteps, step_placeInstr_transact h]
      rfl
    _ = runSteps 3 _ := runSteps_awaiting_x1 rfl rfl rfl rfl
    _ = runSteps 2 _ := runSteps_awaiting_x2 rfl rfl rfl rfl
    _ = runSteps 1 _ := runSteps_awaiting_x3 rfl rfl rfl rfl
    _ = andThen _ (runSteps 0) := congrArg (andThen · (runSteps 0)) (step_of_awaiting_done rfl rfl)
    _ = exec (.transact ch) (placeFor (.transact ch) s) := by
      simp only [exec, execTransact, channelOf_of_lt h]
      rfl

/-- ENCODE is evaluated within the acceptance of its channel, which is placed after it. -/
theorem step_placeInstr_encode {ch : Nat} (h : ch < 8) (s : State) :
    step (placeInstr (.encode ch) s) =
      .next (({ s with
        st := .idle, csN := 1#1,
        codecOut := some (.command (commandWord s.cfg (BitVec.ofNat 3 ch))) } : State).openFrame
          (BitVec.ofNat 3 ch)) := by
  rw [step_placeInstr (by simpa [Instr.wf] using h)]
  simp only [wordStep, exec, execEncode, channelOf_of_lt h, andThen, placeFor, stepRows]
  simp [atomicStep, fetchLines, reqLines, idleLines, runFetched, exec, execAccept, channelOf_of_lt h, placeInstr,
    placeFor]

/-- DECODE is evaluated within exchange 3 of its frame, which is placed after it. -/
theorem step_placeInstr_decode (r1 r2 r3 : Byte) (s : State) :
    step (placeInstr (.decode r1 r2 r3) s) =
      .next ((({ placeFor (.decode r1 r2 r3) s with
        host := s.host, codecOut := some (.sample (sampleOf (lowNibble r2) r3)) } : State).exchange filler).closeFrame
          (lowNibble r2) r3) := by
  rw [step_placeInstr rfl]
  rfl

/-- Settles O42: the placed word is decoded back to its operation (`step_placeInstr`), which has a next state at its
placed position (`exec_placeFor_next`); TRANSACT is run step by step, and the codec's two words within the step they are
placed before. -/
theorem aPlacedWordRunsAtTheNextStep : Obligations.APlacedWordRunsAtTheNextStep := by
  unfold Obligations.APlacedWordRunsAtTheNextStep
  intro s nbits w i h
  have hwf := wf_of_decodeTableWord h
  rw [withFetchWord_of_decode h]
  refine ⟨?_, fun hk => step_placeInstr_of_stepKind hwf hk s, ?_, ?_, ?_⟩
  · cases i with
    | transact ch => exact ⟨_, step_placeInstr_transact (of_decide_eq_true hwf) s⟩
    | encode ch => exact ⟨_, step_placeInstr_encode (of_decide_eq_true hwf) s⟩
    | decode r1 r2 r3 => exact ⟨_, step_placeInstr_decode r1 r2 r3 s⟩
    | accept _ | xchg1 _ | xchg2 _ | xchg3 | ack | faultEntry | reset =>
      rw [step_placeInstr_of_stepKind hwf nofun]
      exact exec_placeFor_next hwf s
  · rintro ch rfl
    exact ⟨runSteps_placeInstr_transact (of_decide_eq_true hwf) s, exec_placeFor_next hwf s⟩
  · rintro ch t rfl ht
    rw [step_placeInstr_encode (of_decide_eq_true hwf)] at ht
    cases ht
    exact ⟨rfl, rfl⟩
  · rintro r1 r2 r3 t rfl ht
    rw [step_placeInstr_decode] at ht
    cases ht
    exact ⟨rfl, rfl⟩

end Sys2Proof.Machine
end

section
/-! PROOFS. The statements of spec/20_memory.md: the frames on the wire (R44), what the host sees of one (R46) and one
response a request (R48). -/

namespace Sys2Proof.Machine

/-! ### The wire as a sequence of frames (R44) -/

/-- The wire stays framed where the events added to it take the bus from the old frame position to the new one. -/
theorem Framed.append {s t : State} (hs : Framed s) {es : List WireEvent} (hw : t.wire = s.wire ++ es)
    (hend : es.foldl busNext (busPosOf s.st) = busPosOf t.st) : Framed t := by
  unfold Framed at hs ⊢
  rw [hw, busPos_append, hs, hend]

/-- Every move keeps the wire framed: each case names the events it adds. A fault ends the frame from any of its three
positions, and chip-select going to 1 closes the bus wherever reset finds it. -/
theorem Framed.move {s t : State} {k : StepKind} (hs : Framed s) (hm : Move s k t) : Framed t := by
  cases hm with
  | opened c hst => exact hs.append (es := [.cs 0#1]) rfl (by rw [hst]; rfl)
  | sentHigh w r1 hst hcmd hans =>
    exact hs.append (es := [.xchg (cmdHigh w) (.byte r1)]) (by simp [hans]) (by rw [hst]; rfl)
  | sentLow w r2 hst hcmd hans =>
    exact hs.append (es := [.xchg (cmdLow w) (.byte r2)]) (by simp [hans]) (by rw [hst]; rfl)
  | closed n r3 hst hhi hans =>
    exact hs.append (es := [.xchg filler (.byte r3), .cs 1#1]) (by simp [hans]) (by rw [hst]; rfl)
  | faulted b hout hans =>
    refine hs.append (es := [.xchg b .fault, .cs 1#1]) (by simp [hans]) ?_
    obtain hst | hst | hst := frameOpen_of_xOut hout <;> rw [hst] <;> rfl
  | returned r hst hresp => exact hs.append (es := []) (by simp) (by rw [hst]; rfl)
  | reset => exact hs.append (es := [.cs 1#1]) rfl (by cases s.st <;> rfl)

/-- Settles O28: every move keeps the wire framed (`Framed.move`), and a step is one. -/
theorem theWireIsAlwaysFramed : Obligations.TheWireIsAlwaysFramed := by
  unfold Obligations.TheWireIsAlwaysFramed
  intro s t hs h
  exact step_keeps (fun _ _ _ hu => hu) (fun _ _ _ hu hm => hu.move hm) hs h

/-! ### One response a request (R48) -/

@[simp] theorem WireEvent.opens_cs (v : BitVec 1) : (WireEvent.cs v).opens = (v == 0#1) := rfl

@[simp] theorem WireEvent.opens_xchg (b : Byte) (a : Answer) : (WireEvent.xchg b a).opens = false := rfl

/-- Every move keeps the count. Acceptance adds one request and owes one response; the return takes the response owed;
an exchange stays outside IDLE and accepts nothing; reset accepts nothing, takes nothing and owes nothing. -/
theorem OneResponseEach.move {s t : State} {k : StepKind} (hs : OneResponseEach s) (hm : Move s k t) :
    OneResponseEach t := by
  unfold OneResponseEach at hs ⊢
  cases hm with
  | opened c hst => simpa [hst, acceptedCount] using hs
  | sentHigh w r1 hst hcmd hans => simpa [hst, acceptedCount] using hs
  | sentLow w r2 hst hcmd hans => simpa [hst, acceptedCount] using hs
  | closed n r3 hst hhi hans => simpa [hst, acceptedCount] using hs
  | faulted b hout hans => simpa [(frameOpen_of_xOut hout).ne_idle, acceptedCount] using hs
  | returned r hst hresp => simpa [hst, acceptedCount] using hs
  | reset => simpa [acceptedCount] using (Nat.le_add_right _ _).trans hs

/-- Settles O29: every move keeps the count (`OneResponseEach.move`), and a step is one. -/
theorem atMostOneResponsePerRequest : Obligations.AtMostOneResponsePerRequest := by
  unfold Obligations.AtMostOneResponsePerRequest
  intro s t hs h
  exact step_keeps (fun _ _ _ hu => hu) (fun _ _ _ hu hm => hu.move hm) hs h

/-! ### What the host sees (R46) -/

/-- Settles O48, by the frame position and, in DONE, by the status that R34 item 4 gives: with OK the sample is the
decoded one (item 4), after a fault there is none and the sticky bit is set (item 5). -/
theorem hostSeesAWholeSampleOrAFault : Obligations.HostSeesAWholeSampleOrAFault := by
  unfold Obligations.HostSeesAWholeSampleOrAFault
  intro s hs
  refine ⟨fun hst => ⟨if_neg hst, if_neg fun h => hst h.1⟩, fun hst => ?_⟩
  obtain ⟨v, hv⟩ := Option.ne_none_iff_exists'.mp (hs.statusHeld hst)
  cases v with
  | ok =>
    obtain ⟨n, b, hhi, hlo, hsample⟩ := hs.sampleDecoded hst hv
    exact .inl ⟨by simp [rspStatus, hst, hv], n, b, hhi, hlo, by simp [rspSample, hst, hv, hsample]⟩
  | transportFault =>
    obtain ⟨-, hseen⟩ := hs.faultMarked hv
    exact .inr ⟨by simp [rspStatus, hst, hv], by simp [rspSample, hv], hseen⟩

end Sys2Proof.Machine
end

section
/-! PROOFS. The statements of spec/30_encoding.md on words and ports: decoding and encoding (R60 to R71), the sent bytes
by position (R63 to R65) and the response on its ports (R70). -/

namespace Sys2Proof.Machine

/-! ### Decoding and encoding (R60 to R71; log 11) -/

/-- Settles O52: the round trip of each instruction, gathered by `decode_encode_of_wf`. -/
theorem decodeOfEncodeIsTheInstruction : Obligations.DecodeOfEncodeIsTheInstruction := by
  unfold Obligations.DecodeOfEncodeIsTheInstruction
  exact fun c i h => decode_encode_of_wf c h

/-- A number below `2 ^ 8` is put together from its bits [7:1] and its bit 0 (R63). -/
theorem tx1_bits {w : Nat} (h : w < 2 ^ 8) :
    ((BitVec.ofNat 8 w).extractLsb' 1 7).toNat * 2 + ((BitVec.ofNat 8 w).extractLsb' 0 1).toNat = w := by
  simp only [BitVec.extractLsb'_toNat, BitVec.toNat_ofNat, Nat.shiftRight_eq_div_pow]
  omega

/-- A number below `2 ^ 8` whose bits [5:0] are zero is its bits [7:6], moved up (R64). -/
theorem tx2_bits {w : Nat} (h : w < 2 ^ 8) (hz : (BitVec.ofNat 8 w).extractLsb' 0 6 = 0#6) :
    ((BitVec.ofNat 8 w).extractLsb' 6 2).toNat * 2 ^ 6 = w := by
  have hz := congrArg BitVec.toNat hz
  simp only [BitVec.extractLsb'_toNat, BitVec.toNat_ofNat, Nat.shiftRight_eq_div_pow] at hz ⊢
  omega

/-- A number below `2 ^ 16` whose bits [5:0] are zero is its bits [15:9] and [8:6], each at its weight (R61). -/
theorem cmd_bits {w : Nat} (h : w < 2 ^ 16) (hz : (BitVec.ofNat 16 w).extractLsb' 0 6 = 0#6) :
    ((BitVec.ofNat 16 w).extractLsb' 9 7).toNat * 2 ^ 9 + ((BitVec.ofNat 16 w).extractLsb' 6 3).toNat * 2 ^ 6 = w := by
  have hz := congrArg BitVec.toNat hz
  simp only [BitVec.extractLsb'_toNat, BitVec.toNat_ofNat, Nat.shiftRight_eq_div_pow] at hz ⊢
  omega

/-- A number below `2 ^ 24` is put together from its three bytes (R67). -/
theorem rsp_bits {w : Nat} (h : w < 2 ^ 24) :
    ((BitVec.ofNat 24 w).extractLsb' 16 8).toNat * 2 ^ 16 + ((BitVec.ofNat 24 w).extractLsb' 8 8).toNat * 2 ^ 8 +
      ((BitVec.ofNat 24 w).extractLsb' 0 8).toNat = w := by
  simp only [BitVec.extractLsb'_toNat, BitVec.toNat_ofNat, Nat.shiftRight_eq_div_pow]
  omega

/-- The encoding of what a word decodes to is that word: every bit of it is an operand's or is fixed. -/
theorem encode_of_decode {c : Config} {f : Format} {w : Nat} {i : Instr} (h : decode c f w = .ok i) :
    encode c i = { format := f, bits := w } := by
  cases f with
  | hreqTransact | hreqAccept =>
    simp only [decode, decodeChannel] at h
    split at h <;> cases h
    rfl
  | tx1 =>
    simp only [decode, decodeTx1] at h
    split_ifs at h with hlt hprefix
    cases h
    simp only [encode, ← hprefix, tx1_bits hlt]
  | tx2 =>
    simp only [decode, decodeTx2] at h
    split_ifs at h with hlt hlow
    cases h
    simp only [encode, tx2_bits hlt hlow]
  | tx3 =>
    simp only [decode, decodeTx3] at h
    split_ifs at h with hlt hzero
    cases h
    have hw : w = 0 := (Nat.mod_eq_of_lt hlt).symm.trans (congrArg BitVec.toNat hzero)
    rw [hw, encode]
  | hack | rspFault | rst =>
    simp only [decode, decodeOne] at h
    split_ifs at h with hlt hone
    cases h
    rw [hone, encode]
  | cmd =>
    simp only [decode, decodeCmd] at h
    split_ifs at h with hlt hfixed
    cases h
    obtain ⟨hprefix, hlow⟩ := hfixed
    simp only [encode, ← hprefix, cmd_bits hlt hlow]
  | rspFrame =>
    simp only [decode, decodeRsp] at h
    split at h <;> cases h
    simp only [encode, rsp_bits ‹w < 2 ^ 24›]

/-- Settles O53: what decodes is well formed (`wf_of_decode`) and encodes back to its word (`encode_of_decode`). -/
theorem eachWordHasOneMeaning : Obligations.EachWordHasOneMeaning := by
  unfold Obligations.EachWordHasOneMeaning
  exact fun c f w i h => ⟨wf_of_decode h, encode_of_decode h⟩

/-- Settles O54: thirteen fixed words, each decoded in both kinds of block. -/
theorem wordsOfTheTableDecode : Obligations.WordsOfTheTableDecode := by
  unfold Obligations.WordsOfTheTableDecode
  intro canFail
  cases canFail <;> decide

/-! ### The sent bytes (R63 to R65) -/

/-- F-TX1 of a channel's command word: `CMD_PREFIX[15:9]` above the channel's bit 2. -/
theorem cmdHigh_commandWord (c : Config) (ch : Channel) :
    cmdHigh (commandWord c ch) = (c.prefixTop.setWidth 8 <<< 1) ||| (ch.extractLsb' 2 1).setWidth 8 := by
  ext i hi
  cases i with
  | zero => simp [cmdHigh, commandWord, Config.cmdPrefix]
  | succ j =>
    have hbit : 8 + (j + 1) = 9 + j := by omega
    have hch : ch.getLsbD (9 + j - 6) = false := BitVec.getLsbD_of_ge ch _ (by omega)
    have hwidth : 9 + j < 16 ∧ j < 16 := by omega
    simp [cmdHigh, commandWord, Config.cmdPrefix, hbit, hch, hwidth]

/-- F-TX2 of a channel's command word: the channel's bits [1:0] above six zeros, whatever `CMD_PREFIX` is. -/
theorem cmdLow_commandWord (c : Config) (ch : Channel) :
    cmdLow (commandWord c ch) = (ch.extractLsb' 0 2).setWidth 8 <<< 6 := by
  ext i hi
  have hprefix : i < 9 := by omega
  have hwidth : i < 16 ∧ i - 6 < 16 ∧ i ≤ 7 := by omega
  simp [cmdLow, commandWord, Config.cmdPrefix, hprefix, hwidth]

/-- Settles O50: `x_out` by the frame position, with the two bytes of the command word; the mask drops the channel's bit
2, which is all that F-TX1 has beside `CMD_PREFIX[15:9]`. -/
theorem sentBytesFollowThePosition : Obligations.SentBytesFollowThePosition := by
  unfold Obligations.SentBytesFollowThePosition
  intro s ch hcmd
  have hx1 (hst : s.st = .x1) :
      xOut s = some ((s.cfg.prefixTop.setWidth 8 <<< 1) ||| (ch.extractLsb' 2 1).setWidth 8) := by
    rw [xOut_of_x1 hst, hcmd, Option.map_some, cmdHigh_commandWord]
  refine ⟨hx1, fun hst => ?_, xOut_of_x3, fun b hprefix hst hb => ?_⟩
  · rw [xOut_of_x2 hst, hcmd, Option.map_some, cmdLow_commandWord]
  · rw [hx1 hst, hprefix] at hb
    cases hb
    generalize ch.extractLsb' 2 1 = bit
    revert bit
    decide

/-! ### The response on its ports (R70) -/

/-- What the ports show in DONE, where there is a response, is that response. -/
theorem ports_of_responseOf {s : State} {r : Response} (hst : s.st = .done) (h : responseOf s = .ok r) :
    rspStatusPort s = some (statusCode r.status) ∧ rspSample s = r.sample := by
  obtain ⟨hstatus, v, hv, rfl⟩ | ⟨hstatus, rfl⟩ := responseOf_ok h
  · simp [rspStatusPort, rspStatus, rspSample, hst, hstatus, hv]
  · simp [rspStatusPort, rspStatus, rspSample, hst, hstatus]

/-- In DONE the invariants give a response (10_state R34 item 4). -/
theorem Inv.exists_response {s : State} (hs : Inv s) (hst : s.st = .done) : ∃ r, responseOf s = .ok r := by
  obtain ⟨v, hv⟩ := Option.ne_none_iff_exists'.mp (hs.statusHeld hst)
  cases v with
  | ok =>
    obtain ⟨n, b, -, -, hsample⟩ := hs.sampleDecoded hst hv
    exact ⟨⟨.ok, some (sampleOf n b)⟩, by simp [responseOf, hv, hsample]⟩
  | transportFault => exact ⟨⟨.transportFault, none⟩, by simp [responseOf, hv]⟩

/-- ACK hands over the response and goes to IDLE (41_transaction R96). -/
theorem execAck_of_responseOf {s : State} {r : Response} (hst : s.st = .done) (h : responseOf s = .ok r) :
    execAck s = .next { s with st := .idle, received := s.received ++ [r] } := by
  simp [execAck, acknowledge, hst, h]

/-- In DONE the block's step on an acknowledge is ACK (R102). -/
theorem atomicStep_ackLines {s : State} (hst : s.st = .done) : atomicStep ackLines s = execAck s := by
  simp [atomicStep, fetchLines, runFetched, exec, ackLines, idleLines, hst]

theorem statusCode_inj {u v : Status} : statusCode u = statusCode v ↔ u = v := by
  cases u <;> cases v <;> decide

/-- The bit on `rsp_status` is a status's code in DONE, and no value elsewhere. -/
theorem rspStatusPort_eq_some {s : State} {v : Status} :
    rspStatusPort s = some (statusCode v) ↔ s.st = .done ∧ s.status = some v := by
  simp only [rspStatusPort, rspStatus, Option.map_eq_some_iff, statusCode_inj, exists_eq_right]
  split <;> simp [*]

/-- Settles O49: the code says the status (`rspStatusPort_eq_some`), and in a state that meets the invariants DONE holds
a response, which is the one on the ports and the one an acknowledge takes. -/
theorem statusIsCodedOnThePort : Obligations.StatusIsCodedOnThePort := by
  unfold Obligations.StatusIsCodedOnThePort
  intro s
  refine ⟨rspStatusPort_eq_some (v := .ok), rspStatusPort_eq_some (v := .transportFault), fun h => ?_, fun hs h => ?_,
    fun hs hst => ?_, fun hs hst => ?_⟩
  · obtain ⟨-, hstatus⟩ := (rspStatusPort_eq_some (v := .transportFault)).mp h
    simp [rspSample, hstatus]
  · obtain ⟨hst, hstatus⟩ := (rspStatusPort_eq_some (v := .ok)).mp h
    obtain ⟨n, b, -, -, hsample⟩ := hs.sampleDecoded hst hstatus
    exact ⟨sampleOf n b, by simp [rspSample, hst, hstatus, hsample]⟩
  · obtain ⟨r, hr⟩ := hs.exists_response hst
    rw [(ports_of_responseOf hst hr).1]
    cases r.status <;> simp [statusCode]
  · obtain ⟨r, hr⟩ := hs.exists_response hst
    obtain ⟨hport, hsample⟩ := ports_of_responseOf hst hr
    have hack := (atomicStep_ackLines hst).trans (execAck_of_responseOf hst hr)
    exact ⟨_, r, (stepOn_eq _ _).trans hack, rfl, rfl, hport, hsample⟩

end Sys2Proof.Machine
end

section
/-! PROOFS. The statements of spec/30_encoding.md on whole frames: the course of a frame, and the words driven at the
block, with TRANSACT run step by step (R69; 41_transaction R90). -/

namespace Sys2Proof.Machine

/-! ### A frame from any of its positions to its response -/

/-- An opened frame meets the invariants of 10_state R34, whatever the block held. -/
theorem inv_openFrame (c : Channel) (s : State) : Inv (s.openFrame c) := by
  constructor <;> simp [frameOpen]

/-- In an open frame a byte is offered (10_state R30, R34 items 2 and 3). -/
theorem Inv.exists_xOut {s : State} (hs : Inv s) (hop : frameOpen s.st) : ∃ b, xOut s = some b := by
  obtain ⟨w, hw⟩ := Option.ne_none_iff_exists'.mp (hs.cmdHeld hop.ne_idle)
  obtain hst | hst | hst := hop
  · exact ⟨cmdHigh w, by rw [xOut_of_x1 hst, hw, Option.map_some]⟩
  · exact ⟨cmdLow w, by rw [xOut_of_x2 hst, hw, Option.map_some]⟩
  · exact ⟨filler, xOut_of_x3 hst⟩

/-- In an open frame an exchange is always possible (41_transaction R95). -/
theorem Inv.exists_exchange {s : State} (hs : Inv s) (hop : frameOpen s.st) : ∃ t, Move s .exchange t := by
  obtain ⟨b, hb⟩ | hfault := answer_byte_or_fault s
  · obtain ⟨w, hw⟩ := Option.ne_none_iff_exists'.mp (hs.cmdHeld hop.ne_idle)
    obtain hst | hst | hst := hop
    · exact ⟨_, .sentHigh w b hst hw hb⟩
    · exact ⟨_, .sentLow w b hst hw hb⟩
    · obtain ⟨n, hn⟩ := Option.ne_none_iff_exists'.mp (hs.hiHeld hst)
      exact ⟨_, .closed n b hst hn hb⟩
  · obtain ⟨b, hb⟩ := hs.exists_xOut hop
    exact ⟨_, .faulted b hb hfault⟩

/-- The exchange of an open frame is the block's step there, whatever the host drives but `rst` (R102). -/
theorem Move.atomicStep_eq {s t : State} (hm : Move s .exchange t) {l : HostLines} (hl : l.rst = false) :
    atomicStep l s = .next t := by
  cases hm with
  | sentHigh w r1 hst hcmd hans => simp [atomicStep_of_x1 hl hst hcmd, exchange1, hcmd, hans]
  | sentLow w r2 hst hcmd hans => simp [atomicStep_of_x2 hl hst hcmd, exchange2, hcmd, hans]
  | closed n r3 hst hhi hans => simp [atomicStep_of_x3 hl hst, exchange3, hhi, hans]
  | faulted b hout hans => exact atomicStep_of_fault hl hout hans

/-- An exchange is made in an open frame. -/
theorem Move.frameOpen {s t : State} (hm : Move s .exchange t) : frameOpen s.st := by
  cases hm with
  | sentHigh w r1 hst hcmd hans => exact .inl hst
  | sentLow w r2 hst hcmd hans => exact .inr (.inl hst)
  | closed n r3 hst hhi hans => exact .inr (.inr hst)
  | faulted b hout hans => exact frameOpen_of_xOut hout

/-- How many exchanges the frame still makes: those up to X3, or up to the first that is answered `fault`
(41_transaction R90; 60_exceptions R121). -/
def exchangesLeft (s : State) : Nat :=
  match s.st with
  | .x1 => if s.answer = .fault then 1 else if s.takeReply.answer = .fault then 2 else 3
  | .x2 => if s.answer = .fault then 1 else 2
  | .x3 => 1
  | .idle => 0
  | .done => 0

theorem exchangesLeft_le (s : State) : exchangesLeft s ≤ 3 := by
  unfold exchangesLeft
  repeat' split
  all_goals omega

/-- Each exchange is one of those left. -/
theorem Move.exchangesLeft_eq {s t : State} (hm : Move s .exchange t) : exchangesLeft s = exchangesLeft t + 1 := by
  cases hm with
  | sentHigh w r1 hst hcmd hans =>
    have hnext : ({ s.exchange (cmdHigh w) with st := .x2 } : State).answer = s.takeReply.answer := rfl
    simp only [exchangesLeft, hst, hans, hnext, reduceCtorEq, if_false]
    split <;> rfl
  | sentLow w r2 hst hcmd hans => simp [exchangesLeft, hst, hans]
  | closed n r3 hst hhi hans => simp [exchangesLeft, hst]
  | faulted b hout hans =>
    obtain hst | hst | hst := frameOpen_of_xOut hout <;> simp [exchangesLeft, hst, hans]

/-- An exchange goes to the next position of the frame, or to DONE. -/
theorem Move.st_ne_idle {s t : State} (hm : Move s .exchange t) : t.st ≠ .idle := by
  cases hm <;> simp

theorem frameOpen_of_ne {p : FrameState} (hidle : p ≠ .idle) (hdone : p ≠ .done) : frameOpen p := by
  cases p with
  | idle => exact absurd rfl hidle
  | done => exact absurd rfl hdone
  | x1 => exact .inl rfl
  | x2 => exact .inr (.inl rfl)
  | x3 => exact .inr (.inr rfl)

/-- The course of a frame, to be followed from its response back over its exchanges (41_transaction R90). -/
inductive Course : State → Prop where
  /-- R96: the response is held. -/
  | done {s : State} (hs : Inv s) (hst : s.st = .done) : Course s
  /-- R92 to R94, 60_exceptions R121: an exchange is pending. -/
  | exchange {s t : State} (hm : Move s .exchange t) (ht : Course t) : Course s

/-- Outside IDLE every block that meets the invariants is in the course of a frame, since each exchange leaves fewer. -/
theorem Inv.course {s : State} (hs : Inv s) (hst : s.st ≠ .idle) : Course s := by
  by_cases hd : s.st = .done
  · exact .done hs hd
  · obtain ⟨t, hm⟩ := hs.exists_exchange (frameOpen_of_ne hst hd)
    have hleft := hm.exchangesLeft_eq
    exact .exchange hm ((hs.move hm).course hm.st_ne_idle)
termination_by exchangesLeft s
decreasing_by omega

/-- The lines of TRANSACT from a frame position on (41_transaction R90): the exchanges left, then the return. -/
def finishFrame (s : State) : Result :=
  andThen (whileAt .x1 exchange1 s) fun s2 =>
  andThen (whileAt .x2 exchange2 s2) fun s3 =>
  andThen (whileAt .x3 exchange3 s3) acknowledge

/-- TRANSACT in IDLE is its frame, opened and finished. -/
theorem execTransact_eq {ch : Nat} {s : State} (hst : s.st = .idle) (hch : ch < 8) :
    exec (.transact ch) s = finishFrame (s.openFrame (BitVec.ofNat 3 ch)) := by
  simp [exec, execTransact, hst, channelOf_of_lt hch, finishFrame, whileAt]

/-- In DONE the return is left. -/
theorem finishFrame_of_done {s : State} (hst : s.st = .done) : finishFrame s = exec .ack s := by
  simp [finishFrame, whileAt, hst, andThen, exec, execAck]

/-- In an open frame its pending exchange is the next of the lines. -/
theorem finishFrame_of_move {s t : State} (hm : Move s .exchange t) : finishFrame s = finishFrame t := by
  cases hm with
  | sentHigh w r1 hst hcmd hans => simp [finishFrame, whileAt, exchange1, hst, hcmd, hans, andThen]
  | sentLow w r2 hst hcmd hans => simp [finishFrame, whileAt, exchange2, hst, hcmd, hans, andThen]
  | closed n r3 hst hhi hans => simp [finishFrame, whileAt, exchange3, hst, hhi, hans, andThen]
  | faulted b hout hans =>
    obtain hst | hst | hst := frameOpen_of_xOut hout
    · rw [xOut_of_x1 hst] at hout
      obtain ⟨w, hw, rfl⟩ := Option.map_eq_some_iff.mp hout
      simp [finishFrame, whileAt, exchange1, hst, hw, hans, andThen]
    · rw [xOut_of_x2 hst] at hout
      obtain ⟨w, hw, rfl⟩ := Option.map_eq_some_iff.mp hout
      simp [finishFrame, whileAt, exchange2, hst, hw, hans, andThen]
    · rw [xOut_of_x3 hst] at hout
      cases hout
      simp [finishFrame, whileAt, exchange3, hst, hans, andThen]

/-! ### Words driven at the block (log 6) -/

theorem takeReply_withHost (s : State) (r : List HostRow) :
    ({ s with host := r } : State).takeReply = { s.takeReply with host := r } := by
  cases h : s.replies <;> simp [State.takeReply, h]

theorem exchange_withHost (b : Byte) (s : State) (r : List HostRow) :
    ({ s with host := r } : State).exchange b = { s.exchange b with host := r } := by
  rw [State.exchange, takeReply_withHost]
  rfl

/-- No move reads or writes the rows to come. -/
theorem Move.host {s t : State} {k : StepKind} (hm : Move s k t) (r : List HostRow) :
    Move { s with host := r } k { t with host := r } := by
  cases hm with
  | opened c hst => exact .opened c hst
  | sentHigh w r1 hst hcmd hans =>
    have hmove := Move.sentHigh (s := { s with host := r }) w r1 hst hcmd hans
    rwa [exchange_withHost] at hmove
  | sentLow w r2 hst hcmd hans =>
    have hmove := Move.sentLow (s := { s with host := r }) w r2 hst hcmd hans
    rwa [exchange_withHost] at hmove
  | closed n r3 hst hhi hans =>
    have hmove := Move.closed (s := { s with host := r }) n r3 hst hhi hans
    rwa [exchange_withHost] at hmove
  | faulted b hout hans =>
    have hmove := Move.faulted (s := { s with host := r }) b hout hans
    rwa [exchange_withHost] at hmove
  | returned q hst hresp => exact .returned q hst hresp
  | reset => exact .reset

@[simp] theorem andThen_next_right (o : Result) : andThen o .next = o := by
  cases o <;> rfl

theorem exchangesLeft_withHost (s : State) (r : List HostRow) :
    exchangesLeft { s with host := r } = exchangesLeft s := by
  simp only [exchangesLeft, takeReply_withHost]
  rfl

/-- The steps of an awaited TRANSACT end where its lines end, with the row used. -/
theorem runSteps_awaiting {s : State} {rest : List HostRow} (hc : Course s) (hh : s.host = .awaiting :: rest) :
    runSteps (exchangesLeft s + 1) s = finishFrame { s with host := rest } := by
  induction hc with
  | @done s _ hst =>
    have hleft : exchangesLeft s = 0 := by simp [exchangesLeft, hst]
    calc runSteps (exchangesLeft s + 1) s
      _ = andThen (step s) .next := by rw [hleft]; rfl
      _ = exec .ack { s with host := rest } := by rw [andThen_next_right, step_of_awaiting_done hh hst]
      _ = finishFrame { s with host := rest } := (finishFrame_of_done (s := { s with host := rest }) hst).symm
  | @exchange s t hm _ ih =>
    have hstep : step s = .next t := by
      rw [step_of_awaiting hh hm.frameOpen.ne_done, hm.atomicStep_eq rfl]
    have hhost : t.host = s.host := atomicStep_host (hm.atomicStep_eq (l := idleLines) rfl)
    calc runSteps (exchangesLeft s + 1) s
      _ = runSteps (exchangesLeft t + 1) t := by rw [hm.exchangesLeft_eq, runSteps, hstep]; rfl
      _ = finishFrame { t with host := rest } := ih (hhost.trans hh)
      _ = finishFrame { s with host := rest } := (finishFrame_of_move (hm.host rest)).symm

/-- A driven word of an operation of a kind of 00_scope R11 is that operation, with the row used. -/
theorem wordStep_of_stepKind {i : Instr} (hk : stepKind i ≠ none) (rest : List HostRow) (after : State → Result)
    (s : State) : wordStep i rest after s = exec i { s with host := rest } := by
  cases i with
  | transact ch => exact absurd rfl hk
  | encode ch => exact absurd rfl hk
  | decode r1 r2 r3 => exact absurd rfl hk
  | accept _ | xchg1 _ | xchg2 _ | xchg3 | ack | faultEntry | reset => rfl

/-- A driven TRANSACT word, from its acceptance to its response (41_transaction R90). -/
theorem runSteps_of_transact_word {s : State} {w : TableWord} {ch : Nat} {rest : List HostRow}
    (hh : s.host = .word w :: rest) (hd : decode s.cfg w.format w.bits = .ok (.transact ch)) (hst : s.st = .idle) :
    runSteps (exchangesLeft (s.openFrame (BitVec.ofNat 3 ch)) + 2) s = exec (.transact ch) { s with host := rest } := by
  have hch : ch < 8 := of_decide_eq_true (wf_of_decode hd)
  have hstep : step s = .next (({ s with host := .awaiting :: rest } : State).openFrame (BitVec.ofNat 3 ch)) := by
    rw [step_of_word hh hd]
    simp [wordStep, exec, execAccept, hst, channelOf_of_lt hch]
  rw [runSteps, hstep, ← exchangesLeft_withHost _ (.awaiting :: rest)]
  exact (runSteps_awaiting ((inv_openFrame _ _).course nofun) rfl).trans
    (execTransact_eq (s := { s with host := rest }) hst hch).symm

/-- An accepted request has as many exchanges to come as the first answer `fault` allows. -/
theorem exchangesLeft_openFrame (c : Channel) (s : State) : exchangesLeft (s.openFrame c) =
    if s.answer = .fault then 1 else if s.takeReply.answer = .fault then 2 else 3 := by
  obtain ⟨hreplies, hdraws⟩ := takeReply_congr (s := s) (t := s.openFrame c) rfl rfl
  have htake : (s.openFrame c).takeReply.answer = s.takeReply.answer := answer_congr (by simp) hreplies hdraws
  simp only [exchangesLeft, State.openFrame_st, htake]
  rfl

/-- ENCODE of a channel records its command word (40_codec R80; log 10). -/
theorem exec_encode_of_lt {ch : Nat} (hch : ch < 8) (s : State) : exec (.encode ch) s =
    .next { s with codecOut := some (.command (commandWord s.cfg (BitVec.ofNat 3 ch))) } := by
  simp [exec, execEncode, channelOf_of_lt hch]

/-- Settles O41: an operation of a kind of 00_scope R11 is run as it is (`wordStep_of_stepKind`), TRANSACT is its
acceptance and then the steps of its frame (`runSteps_of_transact_word`), and a codec word records its result before the
rows' step, which no longer reads the row. -/
theorem stepRunsTheDecodedWord : Obligations.StepRunsTheDecodedWord := by
  unfold Obligations.StepRunsTheDecodedWord
  intro s w i rest hh hd
  have hstep := step_of_word hh hd
  refine ⟨fun hk => hstep.trans (wordStep_of_stepKind hk _ _ s), ?_, ?_⟩
  · rintro ch rfl
    refine ⟨hstep, fun n hst hn => ?_⟩
    rw [hn, ← exchangesLeft_openFrame (BitVec.ofNat 3 ch)]
    exact runSteps_of_transact_word hh hd hst
  · rintro (⟨ch, rfl⟩ | ⟨r1, r2, r3, rfl⟩)
    · have hch : ch < 8 := of_decide_eq_true (wf_of_decode hd)
      refine ⟨_, exec_encode_of_lt hch _, ?_⟩
      rw [hstep, wordStep, exec_encode_of_lt hch]
      exact (stepRows_host rest rest _).symm
    · refine ⟨_, rfl, hstep.trans ?_⟩
      exact (stepRows_host rest rest _).symm

end Sys2Proof.Machine
end

section
/-! PROOFS. The statements of spec/30_encoding.md on host programs (R72; log 18). -/

namespace Sys2Proof.Machine

/-! ### Host programs (R72; log 18) -/

/-- A turn that drives lines goes on from the block's step on them. -/
theorem runHost_of_drive {n : Nat} {ops rest : List HostOp} {reads new : List HostRead} {l : HostLines} {s t : State}
    (hturn : hostTurn ops s = .drive l rest new) (hstep : atomicStep l s = .next t) :
    runHost (n + 1) ops reads s = runHost n rest (reads ++ new) t := by
  simp only [runHost, hturn, stepOn_eq, hstep]

/-- In IDLE the block's step on a request is ACCEPT (41_transaction R102). -/
theorem atomicStep_reqLines {s : State} (hst : s.st = .idle) (ch : Nat) :
    atomicStep (reqLines ch) s = exec (.accept ch) s := by
  simp [atomicStep, fetchLines, runFetched, reqLines, idleLines, hst]

/-- An accepted REQ is done with its turn. -/
theorem runHost_req {n ch : Nat} {ops : List HostOp} {reads : List HostRead} {s t : State}
    (h : exec (.accept ch) s = .next t) : runHost (n + 1) (.req ch :: ops) reads s = runHost n ops reads t := by
  obtain ⟨hst, -⟩ := execAccept_next h
  have hturn : hostTurn (.req ch :: ops) s = .drive (reqLines ch) ops [] := by simp [reqReady, hst]
  rw [runHost_of_drive hturn ((atomicStep_reqLines hst ch).trans h), List.append_nil]

/-- In DONE an ACK reads the response off the ports, and is done with its turn. -/
theorem runHost_ack {n : Nat} {ops : List HostOp} {reads : List HostRead} {s : State} {r : Response}
    (hst : s.st = .done) (hr : responseOf s = .ok r) :
    runHost (n + 1) (.ack :: ops) reads s =
      runHost n ops (reads ++ [r.asRead]) { s with st := .idle, received := s.received ++ [r] } := by
  obtain ⟨hport, hsample⟩ := ports_of_responseOf hst hr
  have hturn : hostTurn (.ack :: ops) s = .drive ackLines ops [r.asRead] := by
    simp [rspValid, hst, HostOp.reads, hport, hsample, Response.asRead]
  exact runHost_of_drive hturn ((atomicStep_ackLines hst).trans (execAck_of_responseOf hst hr))

/-- In an open frame a program holds an operation that is not taken there, and the frame makes its exchange. -/
theorem runHost_of_exchange {n : Nat} {ops rest : List HostOp} {reads : List HostRead} {l : HostLines} {s t : State}
    (hm : Move s .exchange t) (hl : l.rst = false) (hturn : hostTurn ops s = .drive l rest []) :
    runHost (n + 1) ops reads s = runHost n rest reads t := by
  rw [runHost_of_drive hturn (hm.atomicStep_eq hl), List.append_nil]

/-- In an open frame an ACK waits. -/
theorem runHost_ack_of_exchange {n : Nat} {ops : List HostOp} {reads : List HostRead} {s t : State}
    (hm : Move s .exchange t) : runHost (n + 1) (.ack :: ops) reads s = runHost n (.ack :: ops) reads t :=
  runHost_of_exchange (l := idleLines) hm rfl (by simp [rspValid, hm.frameOpen.ne_done])

/-- Settles O55, turn by turn: what the program drives is its `hostTurn`, and what the block does on it is its step. -/
theorem hostOperationsHoldUntilTaken : Obligations.HostOperationsHoldUntilTaken := by
  unfold Obligations.HostOperationsHoldUntilTaken
  intro n ops reads s
  refine ⟨fun ch t h => runHost_req h, fun ch hst hch => ?_, fun ch hst => ?_, fun t h => ?_, fun hst => ?_,
    fun t h => ?_, fun hs hop => ?_, fun hop => ?_, fun hst => ?_, fun hst => ?_⟩
  · have hrefused : exec (.accept ch) s = .refused (.invalidChannel ch) := by
      simp [exec, execAccept, hst, channelOf_eq_none.mpr hch]
    simp [runHost, stepOn_eq, atomicStep_reqLines hst, hrefused]
  · have hquiet : atomicStep (reqLines ch) s = .fault .quiescentDone := by
      simp [atomicStep, fetchLines, runFetched, reqLines, idleLines, hst]
    simp [runHost, stepOn_eq, hquiet]
  · obtain ⟨hst, ha⟩ := execAck_next h
    obtain ⟨r, hr, rfl⟩ := acknowledge_next ha
    obtain ⟨hport, hsample⟩ := ports_of_responseOf hst hr
    refine ⟨_, hport, (runHost_ack hst hr).trans ?_⟩
    rw [hsample]
    rfl
  · have hquiet : atomicStep idleLines s = .fault .quiescentIdle := by
      simp [atomicStep, fetchLines, runFetched, idleLines, hst]
    simp [runHost, stepOn_eq, rspValid, hst, hquiet]
  · rw [runHost_of_drive (hostTurn_reset ops s) h, List.append_nil]
  · obtain ⟨t, hm⟩ := hs.exists_exchange hop
    refine ⟨t, (stepOn_eq _ s).trans (hm.atomicStep_eq rfl), fun ch => ?_, runHost_ack_of_exchange hm, ?_, ?_⟩
    · exact runHost_of_exchange (l := reqLines ch) hm rfl (by simp [reqReady, hop.ne_idle])
    · refine runHost_of_exchange (l := idleLines) hm rfl ?_
      obtain hst | hst | hst := hop <;> simp [hostTurn, hst, HostOp.takenAt, HostOp.lines, HostOp.reads]
    · refine runHost_of_exchange (l := idleLines) hm rfl ?_
      obtain hst | hst | hst := hop <;> simp [hostTurn, hst]
  · cases hst : s.st with
    | idle => simp [runHost, hostTurn, hst]
    | done => simp [runHost, hostTurn, hst]
    | x1 => exact absurd (.inl hst) hop
    | x2 => exact absurd (.inr (.inl hst)) hop
    | x3 => exact absurd (.inr (.inr hst)) hop
  · simp [runHost, hostTurn, hst]
  · simp [runHost, hostTurn, hst]

/-! ### Programs of READONEs (R73) -/

/-- An ACK in a frame is done after the exchanges left and one turn more, with the response and the state that the lines
of TRANSACT give. -/
theorem runHost_ack_of_course {s : State} (hc : Course s) :
    ∃ t r, finishFrame s = .next t ∧ t.st = .idle ∧ t.received = s.received ++ [r] ∧
      ∀ m ops reads,
        runHost (m + 1 + exchangesLeft s) (.ack :: ops) reads s = runHost m ops (reads ++ [r.asRead]) t := by
  induction hc with
  | @done s hs hst =>
    obtain ⟨r, hr⟩ := hs.exists_response hst
    have hleft : exchangesLeft s = 0 := by simp [exchangesLeft, hst]
    refine ⟨_, r, (finishFrame_of_done hst).trans (execAck_of_responseOf hst hr), rfl, rfl, fun m ops reads => ?_⟩
    rw [hleft]
    exact runHost_ack hst hr
  | @exchange s u hm _ ih =>
    obtain ⟨t, r, hfin, hidle, hrec, hrun⟩ := ih
    have hrec' : u.received = s.received := by cases hm <;> simp
    refine ⟨t, r, (finishFrame_of_move hm).trans hfin, hidle, hrec' ▸ hrec, fun m ops reads => ?_⟩
    rw [hm.exchangesLeft_eq]
    exact (runHost_ack_of_exchange hm).trans (hrun m ops reads)

/-- READONE as a program does what TRANSACT does, in at most five turns (41_transaction R90, R95). -/
theorem runHost_readOneProgram {ch : Nat} {s : State} (hst : s.st = .idle) (hch : ch < 8) :
    ∃ t r k, exec (.transact ch) s = .next t ∧ t.st = .idle ∧ t.received = s.received ++ [r] ∧ k ≤ 5 ∧
      ∀ m ops reads, runHost (m + k) (readOneProgram ch ++ ops) reads s = runHost m ops (reads ++ [r.asRead]) t := by
  have hacc : exec (.accept ch) s = .next (s.openFrame (BitVec.ofNat 3 ch)) := by
    simp [exec, execAccept, hst, channelOf_of_lt hch]
  obtain ⟨t, r, hfin, hidle, hrec, hrun⟩ :=
    runHost_ack_of_course ((inv_openFrame (BitVec.ofNat 3 ch) s).course nofun)
  have hle := exchangesLeft_le (s.openFrame (BitVec.ofNat 3 ch))
  refine ⟨t, r, exchangesLeft (s.openFrame (BitVec.ofNat 3 ch)) + 2, (execTransact_eq hst hch).trans hfin, hidle, hrec,
    by omega, fun m ops reads => ?_⟩
  rw [← hrun, ← runHost_req hacc]
  congr 1
  omega

/-- A program of READONEs, after what has been read already. -/
theorem runHost_readProgram (chs : List Nat) {s : State} {n : Nat} (reads : List HostRead) (hst : s.st = .idle)
    (hchs : ∀ ch ∈ chs, ch < 8) (hn : 5 * chs.length < n) :
    ∃ (rs : List Response) (t : State), transactAll chs s = .next t ∧
      runHost n (readProgram chs) reads s = .ended (reads ++ rs.map Response.asRead) t ∧
      t.st = .idle ∧ t.received = s.received ++ rs ∧ rs.length = chs.length := by
  induction chs generalizing s n reads with
  | nil =>
    obtain ⟨m, rfl⟩ : ∃ m, n = m + 1 := ⟨n - 1, by simp at hn; omega⟩
    exact ⟨[], s, rfl, by simp [readProgram, runHost, hostTurn, hst], hst, by simp, rfl⟩
  | cons ch chs ih =>
    obtain ⟨u, r, k, htra, hidle, hrec, hk, hrun⟩ := runHost_readOneProgram hst (hchs ch List.mem_cons_self)
    rw [List.length_cons] at hn
    obtain ⟨m, rfl⟩ : ∃ m, n = m + k := ⟨n - k, by omega⟩
    obtain ⟨rs, t, hall, hrest, ht, hrecs, hlen⟩ :=
      ih (n := m) (reads ++ [r.asRead]) hidle (fun c hc => hchs c (List.mem_cons_of_mem _ hc)) (by omega)
    refine ⟨r :: rs, t, ?_, ?_, ht, ?_, by simp [hlen]⟩
    · rw [transactAll, htra]
      exact hall
    · have hsplit : readProgram (ch :: chs) = readOneProgram ch ++ readProgram chs := rfl
      rw [hsplit, hrun, hrest]
      simp
    · simp [hrecs, hrec]

/-- Settles O56: each READONE of the program does what its TRANSACT does (`runHost_readOneProgram`), one after another.
-/
theorem readProgramsRunTheirTransacts : Obligations.ReadProgramsRunTheirTransacts := by
  unfold Obligations.ReadProgramsRunTheirTransacts
  intro chs s n hst hchs hn
  exact runHost_readProgram chs [] hst hchs hn

end Sys2Proof.Machine
end

section
/-! PROOFS. The statements of spec/30_encoding.md on bursts (R73; log 16): READONE, READMANY and READMANYUNTIL. -/

namespace Sys2Proof.Machine

/-! ### What one TRANSACT hands over -/

/-- Samples as the responses they were taken in (R70). -/
def goodResponses (vs : List Sample) : List Response := vs.map fun v => ⟨.ok, some v⟩

@[simp] theorem goodResponses_nil : goodResponses [] = [] := rfl

@[simp] theorem goodResponses_cons (v : Sample) (vs : List Sample) :
    goodResponses (v :: vs) = ⟨.ok, some v⟩ :: goodResponses vs := rfl

/-- What the frame of a TRANSACT from `s` holds until its response is taken: the responses taken before it, and a fault
only where the transport can fail (00_scope R6). -/
structure FrameOf (s u : State) : Prop where
  cfg : u.cfg = s.cfg
  received : u.received = s.received
  fault : u.status = some .transportFault → s.cfg.transportCanFail = true

/-- Every exchange keeps it: a fault answer is one that the transport can give. -/
theorem FrameOf.exchange {s u v : State} (hu : FrameOf s u) (hm : Move u .exchange v) : FrameOf s v := by
  obtain ⟨hcfg, hrec, hfault⟩ := hu
  cases hm with
  | sentHigh w r1 hst hcmd hans => constructor <;> simpa
  | sentLow w r2 hst hcmd hans => constructor <;> simpa
  | closed n r3 hst hhi hans => constructor <;> simp [hcfg, hrec]
  | faulted b hout hans =>
    refine ⟨by simpa, by simpa, fun _ => ?_⟩
    by_contra hfail
    rw [Bool.not_eq_true, ← hcfg] at hfail
    rw [answer_of_cannot_fail hfail] at hans
    cases hans

/-- From IDLE, on every channel, TRANSACT has a next state: it is what the READONE program comes to. -/
theorem execTransact_completes {ch : Nat} {s : State} (hst : s.st = .idle) (hch : ch < 8) :
    ∃ t, exec (.transact ch) s = .next t := by
  obtain ⟨t, -, -, ht, -⟩ := runHost_readOneProgram hst hch
  exact ⟨t, ht⟩

/-! ### READONE -/

/-- READONE can be called: the block stands in IDLE, and the channel is one. -/
def Callable (ch : Nat) (s : State) : Prop := s.st = .idle ∧ ch < 8

/-- Everything READONE can give its caller. -/
inductive OneRead (ch : Nat) (s : State) : CallResult → Prop where
  | sample (v : Sample) (t : State) (hst : t.st = .idle) (hcfg : t.cfg = s.cfg)
    (hrec : t.received = s.received ++ [⟨.ok, some v⟩]) : OneRead ch s (.samples [v] t)
  | transportFault (t : State) (hst : t.st = .idle) (hfail : s.cfg.transportCanFail = true)
    (hrec : t.received = s.received ++ [⟨.transportFault, none⟩]) : OneRead ch s (.transportFault t)
  | fault (r : Fault) (hno : ¬ Callable ch s) : OneRead ch s (.fault r)
  | refused (r : Refusal) (hno : ¬ Callable ch s) : OneRead ch s (.refused r)

theorem readOne_oneRead (ch : Nat) (s : State) : OneRead ch s (readOne ch s) := by
  have hno (h : ∀ t, exec (.transact ch) s ≠ .next t) : ¬ Callable ch s := by
    rintro ⟨hst, hch⟩
    obtain ⟨t, ht⟩ := execTransact_completes hst hch
    exact h t ht
  unfold readOne
  cases h : exec (.transact ch) s with
  | next t =>
    obtain ⟨u, ⟨hcfg, hrec, hfault⟩, hm⟩ := execTransact_keeps (P := FrameOf s) (fun c => ⟨rfl, rfl, nofun⟩)
      (fun _ _ hu _ hm => hu.exchange hm) h
    cases hm with
    | returned r hst hresp =>
      obtain ⟨-, v, -, rfl⟩ | ⟨hstatus, rfl⟩ := responseOf_ok hresp
      · simp only [callResultOf, List.getLast?_concat]
        exact .sample v _ rfl hcfg (by rw [hrec])
      · simp only [callResultOf, List.getLast?_concat]
        exact .transportFault _ rfl (hfault hstatus) (by rw [hrec])
  | fault r => exact .fault r (hno (by simp [h]))
  | refused r => exact .refused r (hno (by simp [h]))

/-! ### READMANY -/

/-- What a burst of `n` from `s` gives its caller: exactly `n` samples in the order their responses were taken, or,
where the transport can fail, its first Transport-Fault after fewer than `n` good responses. -/
def ReadsInOrder (ch n : Nat) (s : State) : CallResult → Prop
  | .samples vs t => vs.length = n ∧ t.received = s.received ++ goodResponses vs ∧ (s.st = .idle → t.st = .idle)
  | .transportFault t => s.cfg.transportCanFail = true ∧ t.st = .idle ∧
    ∃ vs, vs.length < n ∧ t.received = s.received ++ goodResponses vs ++ [⟨.transportFault, none⟩]
  | .fault _ => ¬ Callable ch s
  | .refused _ => ¬ Callable ch s

/-- READMANY is a burst: its first READONE, and the burst of one less from there. -/
theorem readMany_readsInOrder (ch n : Nat) (s : State) : ReadsInOrder ch n s (readMany ch n s) := by
  induction n generalizing s with
  | zero => simp [readMany, ReadsInOrder]
  | succ n ih =>
    have hone := readOne_oneRead ch s
    unfold readMany
    generalize readOne ch s = first at hone ⊢
    cases hone with
    | sample v t hst hcfg hrec =>
      have hrest := ih t
      dsimp only
      generalize readMany ch n t = later at hrest ⊢
      cases later with
      | samples ws u =>
        obtain ⟨hlen, hrecs, hidle⟩ := hrest
        exact ⟨by simp [hlen], by simp [hrecs, hrec], fun _ => hidle hst⟩
      | transportFault u =>
        obtain ⟨hfail, hidle, ws, hlen, hrecs⟩ := hrest
        exact ⟨hcfg ▸ hfail, hidle, v :: ws, by simpa using hlen, by simp [hrecs, hrec]⟩
      | fault r => exact fun hcall => hrest ⟨hst, hcall.2⟩
      | refused r => exact fun hcall => hrest ⟨hst, hcall.2⟩
    | transportFault t hst hfail hrec => exact ⟨hfail, hst, [], by simp, by simp [hrec]⟩
    | fault r hno => exact hno
    | refused r hno => exact hno

/-- Where it can be called, READMANY gives samples or a Transport-Fault. -/
theorem readMany_completes {ch : Nat} {s : State} (hcall : Callable ch s) (n : Nat) :
    (∃ vs t, readMany ch n s = .samples vs t ∧ t.st = .idle) ∨
    (s.cfg.transportCanFail = true ∧ ∃ (t : State) (vs : List Sample),
      readMany ch n s = .transportFault t ∧ t.st = .idle ∧ vs.length < n ∧
      t.received = s.received ++ goodResponses vs ++ [⟨.transportFault, none⟩]) := by
  have hread := readMany_readsInOrder ch n s
  generalize readMany ch n s = result at hread ⊢
  cases result with
  | samples vs t =>
    obtain ⟨-, -, hidle⟩ := hread
    exact .inl ⟨vs, t, rfl, hidle hcall.1⟩
  | transportFault t =>
    obtain ⟨hfail, hst, vs, hlen, hrec⟩ := hread
    exact .inr ⟨hfail, t, vs, rfl, hst, hlen, hrec⟩
  | fault r => exact absurd hcall hread
  | refused r => exact absurd hcall hread

/-- Settles O57: the samples of a burst are its responses, in order (`readMany_readsInOrder`). -/
theorem readManyReturnsItsCountInOrder : Obligations.ReadManyReturnsItsCountInOrder := by
  unfold Obligations.ReadManyReturnsItsCountInOrder
  intro ch n s t vs h
  have hread := readMany_readsInOrder ch n s
  rw [h] at hread
  obtain ⟨hlen, hrec, -⟩ := hread
  exact ⟨hlen, hrec⟩

/-- Settles O58: of what `readMany_completes` leaves, a transport that cannot fail excludes the Transport-Fault. -/
theorem readManyCompletes : Obligations.ReadManyCompletes := by
  unfold Obligations.ReadManyCompletes
  intro ch n s hst hch
  obtain hsamples | ⟨hfail, hfault⟩ := readMany_completes ⟨hst, hch⟩ n
  · exact ⟨fun _ => hsamples, .inl hsamples⟩
  · exact ⟨fun hcannot => absurd (hcannot.symm.trans hfail) nofun, .inr hfault⟩

/-! ### READMANYUNTIL -/

/-- What READMANYUNTIL gives its caller, within its bound: none where every frame of the bound missed the predicate; a
burst after the misses and the one that triggered it; or the first Transport-Fault. -/
def ReadsUntil (ch n : Nat) (p : Sample → Bool) (fuel : Nat) (s : State) : Option CallResult → Prop
  | none => ∃ vs t, readMany ch fuel s = .samples vs t ∧ ∀ v ∈ vs, p v = false
  | some (.samples vs t) => t.st = .idle ∧ vs.length = n ∧ ∃ (pre : List Sample) (trigger : Sample),
    (∀ v ∈ pre, p v = false) ∧ p trigger = true ∧ t.received = s.received ++ goodResponses (pre ++ trigger :: vs)
  | some (.transportFault t) => s.cfg.transportCanFail = true ∧ t.st = .idle ∧
    ∃ vs, t.received = s.received ++ goodResponses vs ++ [⟨.transportFault, none⟩]
  | some (.fault _) => ¬ Callable ch s
  | some (.refused _) => ¬ Callable ch s

/-- A first result that meets the predicate is followed by READMANY. -/
theorem readManyUntil_of_trigger {ch n fuel : Nat} {p : Sample → Bool} {s t : State} {v : Sample}
    (h : readOne ch s = .samples [v] t) (hv : p v = true) :
    readManyUntil ch n p (fuel + 1) s = some (readMany ch n t) := by
  simp [readManyUntil, h, hv]

/-- A first result that misses it leaves one frame less of the bound. -/
theorem readManyUntil_of_miss {ch n fuel : Nat} {p : Sample → Bool} {s t : State} {v : Sample}
    (h : readOne ch s = .samples [v] t) (hv : p v = false) :
    readManyUntil ch n p (fuel + 1) s = readManyUntil ch n p fuel t := by
  simp [readManyUntil, h, hv]

/-- The burst after the result that met the predicate. -/
theorem ReadsInOrder.readsUntil {ch n : Nat} {p : Sample → Bool} {fuel : Nat} {s t : State} {v : Sample}
    {o : CallResult} (h : ReadsInOrder ch n t o) (hst : t.st = .idle) (hcfg : t.cfg = s.cfg)
    (hrec : t.received = s.received ++ [⟨.ok, some v⟩]) (hv : p v = true) : ReadsUntil ch n p fuel s (some o) := by
  cases o with
  | samples vs u =>
    obtain ⟨hlen, hrecs, hidle⟩ := h
    exact ⟨hidle hst, hlen, [], v, nofun, hv, by simp [hrecs, hrec]⟩
  | transportFault u =>
    obtain ⟨hfail, hidle, vs, -, hrecs⟩ := h
    exact ⟨hcfg ▸ hfail, hidle, v :: vs, by simp [hrecs, hrec]⟩
  | fault r => exact fun hcall => h ⟨hst, hcall.2⟩
  | refused r => exact fun hcall => h ⟨hst, hcall.2⟩

/-- One miss before what the rest of the bound gives. -/
theorem ReadsUntil.miss {ch n : Nat} {p : Sample → Bool} {fuel : Nat} {s t : State} {v : Sample} {o : Option CallResult}
    (h : ReadsUntil ch n p fuel t o) (hone : readOne ch s = .samples [v] t) (hst : t.st = .idle) (hcfg : t.cfg = s.cfg)
    (hrec : t.received = s.received ++ [⟨.ok, some v⟩]) (hv : p v = false) : ReadsUntil ch n p (fuel + 1) s o := by
  match o with
  | none =>
    obtain ⟨vs, u, hmany, hmiss⟩ := h
    exact ⟨v :: vs, u, by simp [readMany, hone, hmany], List.forall_mem_cons.mpr ⟨hv, hmiss⟩⟩
  | some (.samples vs u) =>
    obtain ⟨hidle, hlen, pre, trigger, hpre, htrigger, hrecs⟩ := h
    exact ⟨hidle, hlen, v :: pre, trigger, List.forall_mem_cons.mpr ⟨hv, hpre⟩, htrigger, by simp [hrecs, hrec]⟩
  | some (.transportFault u) =>
    obtain ⟨hfail, hidle, vs, hrecs⟩ := h
    exact ⟨hcfg ▸ hfail, hidle, v :: vs, by simp [hrecs, hrec]⟩
  | some (.fault r) => exact fun hcall => h ⟨hst, hcall.2⟩
  | some (.refused r) => exact fun hcall => h ⟨hst, hcall.2⟩

/-- READMANYUNTIL, frame by frame of its bound: a miss, the trigger, or the fault. -/
theorem readManyUntil_readsUntil (ch n : Nat) (p : Sample → Bool) (fuel : Nat) (s : State) :
    ReadsUntil ch n p fuel s (readManyUntil ch n p fuel s) := by
  induction fuel generalizing s with
  | zero => exact ⟨[], s, rfl, nofun⟩
  | succ fuel ih =>
    have hone := readOne_oneRead ch s
    cases h : readOne ch s with
    | samples vs t =>
      rw [h] at hone
      cases hone with
      | sample v _ hst hcfg hrec =>
        cases hv : p v with
        | true =>
          rw [readManyUntil_of_trigger h hv]
          exact (readMany_readsInOrder ch n t).readsUntil hst hcfg hrec hv
        | false =>
          rw [readManyUntil_of_miss h hv]
          exact (ih t).miss h hst hcfg hrec hv
    | transportFault t =>
      rw [h] at hone
      cases hone with
      | transportFault _ hst hfail hrec =>
        simp only [readManyUntil, h]
        exact ⟨hfail, hst, [], by simp [hrec]⟩
    | fault r | refused r =>
      rw [h] at hone
      simp only [readManyUntil, h]
      cases hone
      assumption

/-- Settles O59: of what READMANYUNTIL gives (`readManyUntil_readsUntil`), the samples and the fault. -/
theorem readManyUntilDiscardsTheTrigger : Obligations.ReadManyUntilDiscardsTheTrigger := by
  unfold Obligations.ReadManyUntilDiscardsTheTrigger
  intro ch n p fuel s t
  have huntil := readManyUntil_readsUntil ch n p fuel s
  constructor
  · intro vs h
    rw [h] at huntil
    exact huntil.2
  · intro h
    rw [h] at huntil
    obtain ⟨-, -, hrec⟩ := huntil
    exact hrec

/-- Settles O60: none is what `readManyUntil_readsUntil` says of it; the stops need a block outside IDLE or no channel;
and after the trigger READMANY gives samples where the transport cannot fail (`readMany_completes`). -/
theorem readManyUntilCompletes : Obligations.ReadManyUntilCompletes := by
  unfold Obligations.ReadManyUntilCompletes
  intro ch n p fuel s hst hch
  refine ⟨fun h => ?_, fun hsome => ?_, fun v t hcannot hfuel hone hv => ?_⟩
  · have huntil := readManyUntil_readsUntil ch n p fuel s
    rw [h] at huntil
    exact huntil
  · have huntil := readManyUntil_readsUntil ch n p fuel s
    obtain ⟨result, h⟩ := Option.ne_none_iff_exists'.mp hsome
    rw [h] at huntil ⊢
    cases result with
    | samples vs t =>
      obtain ⟨hidle, -⟩ := huntil
      exact ⟨t, hidle, .inl ⟨vs, rfl⟩⟩
    | transportFault t =>
      obtain ⟨hfail, hidle, -⟩ := huntil
      exact ⟨t, hidle, .inr ⟨hfail, rfl⟩⟩
    | fault r => exact absurd ⟨hst, hch⟩ huntil
    | refused r => exact absurd ⟨hst, hch⟩ huntil
  · obtain ⟨m, rfl⟩ := Nat.exists_eq_add_one.mpr hfuel
    have hread := readOne_oneRead ch s
    rw [hone] at hread
    cases hread with
    | sample _ _ hidle hcfg hrec =>
      obtain ⟨vs, u, hmany, -⟩ | ⟨hfail, -⟩ := readMany_completes ⟨hidle, hch⟩ n
      · exact ⟨vs, u, (readManyUntil_of_trigger hone hv).trans (congrArg some hmany), hmany⟩
      · exact absurd ((hcfg ▸ hcannot).symm.trans hfail) nofun

end Sys2Proof.Machine
end

section
/-! PROOFS. The statements of spec/40_codec.md: ENCODE (R80 to R82), DECODE (R83 to R85, R87) and the two as numbers
(R86). Both are concatenations of their fields; the field, mask and number facts come from that. -/

namespace Sys2Proof.Machine

/-! ### The two functions as concatenations -/

/-- As a number a concatenation is a sum: the upper part is moved clear of the lower. -/
theorem toNat_append_eq_add {m n : Nat} (x : BitVec m) (y : BitVec n) :
    (x ++ y).toNat = x.toNat * 2 ^ n + y.toNat := by
  rw [BitVec.toNat_append, ← Nat.shiftLeft_add_eq_or_of_lt y.isLt, Nat.shiftLeft_eq]

/-- A command word is `CMD_PREFIX[15:9]`, the channel and six zeros (30_encoding R61). -/
theorem commandWord_eq_append (c : Config) (ch : Channel) : commandWord c ch = c.prefixTop ++ ch ++ 0#6 := by
  have hfields := BitVec.setWidth_append_append_eq_shiftLeft_setWidth_or (w''' := 16) (b := c.prefixTop) (b' := ch)
    (b'' := 0#6)
  rw [BitVec.setWidth_eq, BitVec.setWidth_zero, BitVec.or_zero] at hfields
  exact hfields.symm

/-- `CMD_PREFIX` is its bits [15:9] above nine zeros: the command word of channel 0. -/
theorem cmdPrefix_eq_append (c : Config) : c.cmdPrefix = c.prefixTop ++ 0#3 ++ 0#6 := by
  rw [← commandWord_eq_append, commandWord, BitVec.setWidth_zero, BitVec.zero_shiftLeft, BitVec.or_zero]

/-- A sample is its nibble and its low byte. -/
theorem sampleOf_eq_append (n : Nibble) (lo : Byte) : sampleOf n lo = n ++ lo := by
  have hfields := BitVec.setWidth_append_eq_shiftLeft_setWidth_or (w'' := 12) (b := n) (b' := lo)
  rw [BitVec.setWidth_eq] at hfields
  exact hfields.symm

/-! ### ENCODE (R80 to R82) -/

theorem toNat_commandWord (c : Config) (ch : Channel) :
    (commandWord c ch).toNat = c.cmdPrefix.toNat + ch.toNat * 2 ^ 6 := by
  rw [commandWord_eq_append, cmdPrefix_eq_append]
  simp only [toNat_append_eq_add, BitVec.toNat_ofNat]
  omega

/-- Bits [8:6] of a command word are its channel. -/
theorem extractLsb'_commandWord_channel (c : Config) (ch : Channel) : (commandWord c ch).extractLsb' 6 3 = ch := by
  rw [commandWord_eq_append, BitVec.extractLsb'_append_eq_of_le (Nat.le_refl 6)]
  exact BitVec.extractLsb'_append_eq_right

/-- Bits [5:0] are zero. -/
theorem extractLsb'_commandWord_low (c : Config) (ch : Channel) : (commandWord c ch).extractLsb' 0 6 = 0#6 := by
  rw [commandWord_eq_append]
  exact BitVec.extractLsb'_append_eq_right

/-- What lies in bits [15:9] of a command word are bits of `CMD_PREFIX[15:9]`. -/
theorem extractLsb'_commandWord_prefix (c : Config) (ch : Channel) {start : Nat} (h : 9 ≤ start) (len : Nat) :
    (commandWord c ch).extractLsb' start len = c.prefixTop.extractLsb' (start - 9) len := by
  rw [commandWord_eq_append, BitVec.extractLsb'_append_eq_of_le (by omega),
    BitVec.extractLsb'_append_eq_of_le (by omega), Nat.sub_sub]

/-- The mask of the bits outside [8:6] keeps both parts of `CMD_PREFIX` and drops the channel. -/
theorem commandWord_and_prefixMask (c : Config) (ch : Channel) : commandWord c ch &&& 0xFE3F#16 = c.cmdPrefix := by
  have hmask : 0xFE3F#16 = BitVec.allOnes 7 ++ 0#3 ++ BitVec.allOnes 6 := rfl
  rw [commandWord_eq_append, cmdPrefix_eq_append, hmask, BitVec.and_append, BitVec.and_append]
  simp only [BitVec.and_allOnes, BitVec.and_zero]

/-- Settles O3: as numbers two command words differ by `2 ^ 6` times what their channels differ by
(`toNat_commandWord`), so they are equal and ordered as the channels are. -/
theorem encodeIsInjectiveAndOrdered : Obligations.EncodeIsInjectiveAndOrdered := by
  unfold Obligations.EncodeIsInjectiveAndOrdered
  intro c a b
  refine ⟨?_, ?_, extractLsb'_commandWord_channel c a, commandWord_and_prefixMask c a⟩
  · rw [← BitVec.toNat_inj, ← BitVec.toNat_inj, toNat_commandWord, toNat_commandWord]
    omega
  · rw [BitVec.lt_def, BitVec.lt_def, toNat_commandWord, toNat_commandWord]
    omega

/-- Settles O1: a number below 8 is a channel, and its command word is the one R80 writes (`commandWord_ofNat`). -/
theorem encodeGivesPrefixOrShiftedChannel : Obligations.EncodeGivesPrefixOrShiftedChannel := by
  unfold Obligations.EncodeGivesPrefixOrShiftedChannel
  intro s ch hch
  rw [exec_encode_of_lt hch, commandWord_ofNat s.cfg hch]

/-- Settles O2: the three fields of a command word and its two bytes (`cmdHigh_commandWord`, `cmdLow_commandWord`) where
`CMD_PREFIX[15:9]` is `0b0000010`. -/
theorem encodeFieldValuesWithDefaultPrefix : Obligations.EncodeFieldValuesWithDefaultPrefix := by
  unfold Obligations.EncodeFieldValuesWithDefaultPrefix
  intro canFail ch
  have htop : (Config.standard canFail).prefixTop = 0b0000010#7 := rfl
  refine ⟨?_, ?_, ?_, extractLsb'_commandWord_channel _ ch, extractLsb'_commandWord_low _ ch,
    cmdHigh_commandWord _ ch, cmdLow_commandWord _ ch⟩ <;>
  · rw [extractLsb'_commandWord_prefix _ ch (by omega), htop]
    decide

/-! ### DECODE (R83 to R85, R87) -/

/-- Settles O4: DECODE of every reply frame, as R83 writes it. -/
theorem decodeJoinsNibbleAndLowByte : Obligations.DecodeJoinsNibbleAndLowByte := by
  unfold Obligations.DecodeJoinsNibbleAndLowByte
  exact fun s r1 r2 r3 => rfl

/-- The nibble captured is the reply masked to its low 4 bits (R84). -/
theorem lowNibble_eq_mask (r2 : Byte) : lowNibble r2 = (r2 &&& 0x0F#8).setWidth 4 := by
  have hmask : (0x0F#8).setWidth 4 = BitVec.allOnes 4 := rfl
  rw [BitVec.setWidth_and, hmask, BitVec.and_allOnes, BitVec.setWidth_eq_extractLsb' (by omega), lowNibble]

/-- A TRANSACT whose three answers are bytes completes with the sample of the last two (41_transaction R90, R94). -/
theorem execTransact_of_bytes {ch : Nat} {s : State} (hst : s.st = .idle) (hch : ch < 8) (r1 r2 r3 : Byte)
    (rest : List Reply) :
    ∃ t, exec (.transact ch) { s with replies := ⟨r1, false⟩ :: ⟨r2, false⟩ :: ⟨r3, false⟩ :: rest } = .next t ∧
      t.sample = some (sampleOf (lowNibble r2) r3) := by
  have hrun := calc exec (.transact ch) { s with replies := ⟨r1, false⟩ :: ⟨r2, false⟩ :: ⟨r3, false⟩ :: rest }
    _ = finishFrame _ := execTransact_eq hst hch
    _ = finishFrame _ := finishFrame_of_move (.sentHigh _ r1 rfl rfl rfl)
    _ = finishFrame _ := finishFrame_of_move (.sentLow _ r2 rfl rfl rfl)
    _ = finishFrame _ := finishFrame_of_move (.closed _ r3 rfl rfl rfl)
    _ = exec .ack _ := finishFrame_of_done rfl
  exact ⟨_, hrun, rfl⟩

/-- Settles O5: of the first two replies DECODE and TRANSACT read `lowNibble r2` alone, which is all that the mask
keeps. -/
theorem ignoredReplyBitsChangeNoSample : Obligations.IgnoredReplyBitsChangeNoSample := by
  unfold Obligations.IgnoredReplyBitsChangeNoSample
  have hnibble {r2 r2' : Byte} (h : r2 &&& 0x0F#8 = r2' &&& 0x0F#8) : lowNibble r2 = lowNibble r2' := by
    rw [lowNibble_eq_mask, lowNibble_eq_mask, h]
  refine ⟨fun s r1 r1' r2 r2' r3 h => ?_, fun s ch r1 r1' r2 r2' r3 rest hst hch h => ?_⟩
  · simp only [exec, execDecode, hnibble h]
  · obtain ⟨t, ht, hsample⟩ := execTransact_of_bytes hst hch r1 r2 r3 rest
    obtain ⟨t', ht', hsample'⟩ := execTransact_of_bytes hst hch r1' r2' r3 rest
    refine ⟨t, t', ht, ht', ?_, ?_⟩
    · rw [hsample, hsample', hnibble h]
    · rw [hsample, lowNibble_eq_mask]

/-- Settles O6: a sample is the concatenation of its nibble and byte, and fits in 12 bits. -/
theorem decodeIsBoundedOntoAndInvertsTheSplit : Obligations.DecodeIsBoundedOntoAndInvertsTheSplit := by
  unfold Obligations.DecodeIsBoundedOntoAndInvertsTheSplit
  refine ⟨fun v => ?_, fun n lo => ?_, fun r2 r3 => Nat.le_of_lt_succ (sampleOf (lowNibble r2) r3).isLt⟩
  · rw [sampleOf_eq_append]
    exact BitVec.extractLsb'_append_extractLsb'
  · rw [sampleOf_eq_append]
    exact ⟨BitVec.extractLsb'_append_eq_left, BitVec.extractLsb'_append_eq_right⟩

/-! ### No bit is lost (R86) -/

/-- Settles O7: a concatenation is a sum of its parts (`toNat_append_eq_add`). -/
theorem codecLosesNoBit : Obligations.CodecLosesNoBit := by
  unfold Obligations.CodecLosesNoBit
  refine ⟨toNat_commandWord, fun n lo => ?_⟩
  rw [sampleOf_eq_append]
  exact toNat_append_eq_add n lo

end Sys2Proof.Machine
end

section
/-! PROOFS. The statements of spec/41_transaction.md on the operations of a frame (R91 to R94, R96): what each does to
the block, where it can run at all, and what it leaves in the inputs and the records (log 1, log 10). -/

namespace Sys2Proof.Machine

/-! ### ACCEPT (R91) -/

/-- In IDLE a channel number below 8 is accepted, and its frame opened. -/
theorem exec_accept_of_lt {s : State} {ch : Nat} (hst : s.st = .idle) (hch : ch < 8) :
    exec (.accept ch) s = .next (s.openFrame (BitVec.ofNat 3 ch)) := by
  simp [exec, execAccept, hst, channelOf_of_lt hch]

/-- Settles O9: an accepted request opens its frame, with the command word as R91 writes it (`commandWord_ofNat`), and
nothing else is accepted (`execAccept_next`). -/
theorem acceptOpensTheFrame : Obligations.AcceptOpensTheFrame := by
  unfold Obligations.AcceptOpensTheFrame
  intro s ch
  refine ⟨fun hst hch => ⟨_, exec_accept_of_lt hst hch, ?_⟩, fun hst t h => ?_, fun hch t h => ?_⟩
  · simp [State.block, commandWord_ofNat s.cfg hch]
  · exact hst (execAccept_next h).1
  · obtain ⟨-, c, hc, -⟩ := execAccept_next h
    exact absurd (channelOf_eq_some.mp hc).1 (Nat.not_lt.mpr hch)

/-! ### The exchanges (R92 to R94) -/

/-- XCHG1 driven with the block's own free bit is exchange 1. -/
theorem exec_xchg1_of_cmd {s : State} {w : CommandWord} (hst : s.st = .x1) (hw : s.cmd = some w) :
    exec (.xchg1 (tx1Free w)) s = exchange1 s := by
  simp [exec, execXchg1, hst, hw]

/-- XCHG2 driven with the block's own free bits is exchange 2. -/
theorem exec_xchg2_of_cmd {s : State} {w : CommandWord} (hst : s.st = .x2) (hw : s.cmd = some w) :
    exec (.xchg2 (tx2Free w)) s = exchange2 s := by
  simp [exec, execXchg2, hst, hw]

theorem exec_xchg3_of_x3 {s : State} (hst : s.st = .x3) : exec .xchg3 s = exchange3 s := by
  simp [exec, execXchg3, hst]

section
variable {s : State} {b : Byte}

theorem exchange1_of_byte {w : CommandWord} (hw : s.cmd = some w) (ha : s.answer = .byte b) :
    exchange1 s = .next { s.exchange (cmdHigh w) with st := .x2 } := by
  simp only [exchange1, hw, ha]

theorem exchange1_of_fault {w : CommandWord} (hw : s.cmd = some w) (ha : s.answer = .fault) :
    exchange1 s = .next (s.exchange (cmdHigh w)).raiseTransportFault := by
  simp only [exchange1, hw, ha]

theorem exchange2_of_byte {w : CommandWord} (hw : s.cmd = some w) (ha : s.answer = .byte b) :
    exchange2 s = .next { s.exchange (cmdLow w) with hi := some (lowNibble b), st := .x3 } := by
  simp only [exchange2, hw, ha]

theorem exchange2_of_fault {w : CommandWord} (hw : s.cmd = some w) (ha : s.answer = .fault) :
    exchange2 s = .next (s.exchange (cmdLow w)).raiseTransportFault := by
  simp only [exchange2, hw, ha]

theorem exchange3_of_byte {n : Nibble} (hn : s.hi = some n) (ha : s.answer = .byte b) :
    exchange3 s = .next ((s.exchange filler).closeFrame n b) := by
  simp only [exchange3, hn, ha]

theorem exchange3_of_fault (ha : s.answer = .fault) :
    exchange3 s = .next (s.exchange filler).raiseTransportFault := by
  simp only [exchange3, ha]

end

/-- What a failed exchange leaves in the block (60_exceptions R121). -/
theorem block_raiseTransportFault_exchange (s : State) (b : Byte) :
    (s.exchange b).raiseTransportFault.block = { s.block with
      csN := 1#1, sample := none, status := some .transportFault, faultSeen := true, st := .done } := by
  simp [State.block]

/-- Settles O10, by the answer of exchange 1. -/
theorem firstExchangeSendsHighByte : Obligations.FirstExchangeSendsHighByte := by
  unfold Obligations.FirstExchangeSendsHighByte
  intro s w hst hw
  have hrun := exec_xchg1_of_cmd hst hw
  refine ⟨by rw [xOut_of_x1 hst, hw]; rfl, fun r1 ha => ?_, fun ha => ?_⟩
  · exact ⟨_, hrun.trans (exchange1_of_byte hw ha), by simp [State.block]⟩
  · exact ⟨_, hrun.trans (exchange1_of_fault hw ha), block_raiseTransportFault_exchange s _⟩

/-- Settles O11, by the answer of exchange 2. -/
theorem secondExchangeCapturesNibble : Obligations.SecondExchangeCapturesNibble := by
  unfold Obligations.SecondExchangeCapturesNibble
  intro s w hst hw
  have hrun := exec_xchg2_of_cmd hst hw
  refine ⟨by rw [xOut_of_x2 hst, hw]; rfl, fun r2 ha => ?_, fun ha => ?_⟩
  · exact ⟨_, hrun.trans (exchange2_of_byte hw ha), by simp [State.block, lowNibble]⟩
  · exact ⟨_, hrun.trans (exchange2_of_fault hw ha), block_raiseTransportFault_exchange s _⟩

/-- Settles O12, by the answer of exchange 3. -/
theorem thirdExchangeDecodesAndCloses : Obligations.ThirdExchangeDecodesAndCloses := by
  unfold Obligations.ThirdExchangeDecodesAndCloses
  intro s n hst hn
  have hrun := exec_xchg3_of_x3 hst
  refine ⟨xOut_of_x3 hst, fun r3 ha => ?_, fun ha => ?_⟩
  · exact ⟨_, hrun.trans (exchange3_of_byte hn ha), by simp [State.block, sampleOf]⟩
  · exact ⟨_, hrun.trans (exchange3_of_fault ha), block_raiseTransportFault_exchange s _⟩

/-! ### ACK (R96) -/

/-- In DONE the port `rsp_status` shows the status of the response. -/
theorem rspStatus_of_responseOf {s : State} {r : Response} (hst : s.st = .done) (h : responseOf s = .ok r) :
    rspStatus s = some r.status := by
  obtain ⟨hstatus, v, -, rfl⟩ | ⟨hstatus, rfl⟩ := responseOf_ok h <;> simp [rspStatus, hst, hstatus]

/-- Settles O16: in DONE the response is what the status says, the ports show it, and ACK moves `ST` alone. -/
theorem ackDeliversTheResponse : Obligations.AckDeliversTheResponse := by
  unfold Obligations.AckDeliversTheResponse
  intro s hst
  refine ⟨fun v hok hv => ?_, fun hfault => ?_⟩
  · have hresp : responseOf s = .ok ⟨.ok, some v⟩ := by simp [responseOf, hok, hv]
    obtain ⟨-, hsample⟩ := ports_of_responseOf hst hresp
    exact ⟨rspStatus_of_responseOf hst hresp, hsample, _, execAck_of_responseOf hst hresp, rfl⟩
  · have hresp : responseOf s = .ok ⟨.transportFault, none⟩ := by simp [responseOf, hfault]
    obtain ⟨-, hsample⟩ := ports_of_responseOf hst hresp
    exact ⟨rspStatus_of_responseOf hst hresp, hsample, _, execAck_of_responseOf hst hresp, rfl⟩

/-! ### Guards (R90 to R96, 60_exceptions R121) -/

/-- Settles O14: each operation's own lemma of what it can answer begins with its guard. -/
theorem eachOperationNeedsItsPosition : Obligations.EachOperationNeedsItsPosition := by
  unfold Obligations.EachOperationNeedsItsPosition
  intro s t
  refine ⟨fun ch h => ?_, fun ch h => ?_, fun c h => (execXchg1_next h).1, fun cc h => (execXchg2_next h).1,
    fun h => (execXchg3_next h).1, fun h => (execAck_next h).1, fun h => ?_⟩
  · obtain ⟨c, -, -, -, hst, hc, -⟩ := execTransact_next h
    exact ⟨hst, (channelOf_eq_some.mp hc).1⟩
  · obtain ⟨hst, c, hc, -⟩ := execAccept_next h
    exact ⟨hst, (channelOf_eq_some.mp hc).1⟩
  · obtain ⟨b, hb, hfault, -⟩ := execFaultEntry_next h
    exact ⟨frameOpen_of_xOut hb, hfault⟩

/-! ### Inputs and records (R96, R99; log 1, log 10) -/

/-- An exchange puts the byte offered with its answer on the wire, and chip-select 1 where it ends the frame. -/
theorem Move.exchange_wire {s t : State} {b : Byte} (hm : Move s .exchange t) (hb : xOut s = some b) :
    t.wire = s.wire ++ (.xchg b s.answer :: if t.st = .done then [.cs 1#1] else []) := by
  cases hm with
  | sentHigh w r1 hst hcmd hans =>
    obtain rfl : cmdHigh w = b := by simpa [xOut_of_x1 hst, hcmd] using hb
    simp
  | sentLow w r2 hst hcmd hans =>
    obtain rfl : cmdLow w = b := by simpa [xOut_of_x2 hst, hcmd] using hb
    simp
  | closed n r3 hst hhi hans =>
    obtain rfl : filler = b := by simpa [xOut_of_x3 hst] using hb
    simp
  | faulted d hout hans =>
    obtain rfl : d = b := Option.some.inj (hout.symm.trans hb)
    simp

/-- Only the return hands over a response. -/
theorem Move.received_eq {s t : State} {k : StepKind} (hm : Move s k t) (hk : k ≠ .acknowledge) :
    t.received = s.received := by
  cases hm with
  | returned r hst hresp => exact absurd rfl hk
  | opened c hst => rfl
  | sentHigh w r1 hst hcmd hans => simp
  | sentLow w r2 hst hcmd hans => simp
  | closed n r3 hst hhi hans => simp
  | faulted b hout hans => simp
  | reset => rfl

/-- No move writes the codec's record. -/
theorem Move.codecOut_eq {s t : State} {k : StepKind} (hm : Move s k t) : t.codecOut = s.codecOut := by
  cases hm <;> simp

/-- Only ENCODE and DECODE write the codec's record. -/
theorem exec_codecOut {i : Instr} {s t : State} (h : exec i s = .next t) (henc : ∀ n, i ≠ .encode n)
    (hdec : ∀ r1 r2 r3, i ≠ .decode r1 r2 r3) : t.codecOut = s.codecOut := by
  cases i with
  | encode ch => exact absurd rfl (henc ch)
  | decode r1 r2 r3 => exact absurd rfl (hdec r1 r2 r3)
  | transact ch =>
    obtain ⟨u, hu, hm⟩ := execTransact_keeps (P := fun u => u.codecOut = s.codecOut) (fun _ => rfl)
      (fun _ _ hu _ hm => hm.codecOut_eq.trans hu) h
    exact hm.codecOut_eq.trans hu
  | accept _ | xchg1 _ | xchg2 _ | xchg3 | ack | faultEntry | reset => exact (exec_move rfl h).codecOut_eq

/-- Settles O17: the exchanges by what every move of that kind records (`Move.exchange_wire`, `Move.takes_reply`,
`Move.received_eq`), the other operations by the one state each can answer. -/
theorem operationsUseInputsAndRecordOutputs : Obligations.OperationsUseInputsAndRecordOutputs := by
  unfold Obligations.OperationsUseInputsAndRecordOutputs
  intro s t ch c cc
  refine ⟨fun h => ?_, fun b hb h => ?_, fun h => ?_, fun h => ?_, fun i h => ⟨exec_host h, exec_codecOut h⟩⟩
  · obtain ⟨-, c, -, rfl⟩ := execAccept_next h
    exact ⟨rfl, rfl, rfl, rfl⟩
  · have hm : Move s .exchange t := by
      obtain h | h | h | h := h <;> exact exec_move rfl h
    obtain ⟨hreplies, hdraws⟩ := hm.takes_reply
    exact ⟨hm.exchange_wire hb, hreplies, hdraws, hm.received_eq nofun⟩
  · obtain ⟨hst, ha⟩ := execAck_next h
    obtain ⟨r, hr, rfl⟩ := acknowledge_next ha
    obtain ⟨-, hsample⟩ := ports_of_responseOf hst hr
    exact ⟨⟨r.status, rspStatus_of_responseOf hst hr, by rw [hsample]⟩, rfl, rfl, rfl⟩
  · cases h
    exact ⟨rfl, rfl, rfl, rfl⟩

end Sys2Proof.Machine
end

section
/-! PROOFS. The statements of spec/41_transaction.md on the step function (R95, R97, R98, R102, R103). -/

namespace Sys2Proof.Machine

/-! ### The table of R102 -/

/-- A row of lines placed as the next one makes the block's step. -/
theorem step_lines (l : HostLines) (rest : List HostRow) (s : State) :
    step { s with host := .lines l :: rest } = atomicStep l { s with host := rest } := rfl

/-- With no row the block's step is made on idle lines. -/
theorem step_nil (s : State) : step { s with host := [] } = atomicStep idleLines { s with host := [] } := rfl

/-- On a row of lines a step runs what the lines select; the selection does not read the rows after it. -/
theorem step_of_fetchLines {s : State} {l : HostLines} {rest : List HostRow} {f : Fetched}
    (hh : s.host = .lines l :: rest) (hf : fetchLines l s = f) : step s = runFetched f { s with host := rest } := by
  subst hf
  exact step_of_lines hh

section
variable {s : State} {l : HostLines} (hr : l.rst = false)
include hr

theorem fetchLines_of_idle (hst : s.st = .idle) :
    fetchLines l s = if l.reqValid then .run (.accept l.reqCh) else .fault .quiescentIdle := by
  simp [fetchLines, hr, hst]

theorem fetchLines_of_done (hst : s.st = .done) :
    fetchLines l s = if l.rspReady then .run .ack else .fault .quiescentDone := by
  simp [fetchLines, hr, hst]

theorem fetchLines_of_fault (hop : frameOpen s.st) (ha : s.answer = .fault) : fetchLines l s = .run .faultEntry := by
  obtain hst | hst | hst := hop <;> simp [fetchLines, hr, hst, ha]

theorem fetchLines_of_x1 {b : Byte} {w : CommandWord} (hst : s.st = .x1) (ha : s.answer = .byte b)
    (hw : s.cmd = some w) : fetchLines l s = .run (.xchg1 (tx1Free w)) := by
  simp [fetchLines, hr, hst, ha, hw]

theorem fetchLines_of_x2 {b : Byte} {w : CommandWord} (hst : s.st = .x2) (ha : s.answer = .byte b)
    (hw : s.cmd = some w) : fetchLines l s = .run (.xchg2 (tx2Free w)) := by
  simp [fetchLines, hr, hst, ha, hw]

theorem fetchLines_of_x3 {b : Byte} (hst : s.st = .x3) (ha : s.answer = .byte b) : fetchLines l s = .run .xchg3 := by
  simp [fetchLines, hr, hst, ha]

end

/-- Settles O37: the table row by row, each the selection of its `fetchLines` lemma. -/
theorem stepFollowsItsTable : Obligations.StepFollowsItsTable := by
  unfold Obligations.StepFollowsItsTable
  intro s l rest _ hr hh
  refine ⟨fun hst hv => ?_, fun hst hv => ?_, fun hop ha => ?_, fun b w hst ha hw => ?_, fun b w hst ha hw => ?_,
    fun b hst ha => ?_, fun hst hready => ?_, fun hst hready => ?_⟩
  · exact step_of_fetchLines hh ((fetchLines_of_idle hr hst).trans (if_pos hv))
  · exact step_of_fetchLines hh ((fetchLines_of_idle hr hst).trans (if_neg (by simp [hv])))
  · exact step_of_fetchLines hh (fetchLines_of_fault hr hop ha)
  · exact step_of_fetchLines hh (fetchLines_of_x1 hr hst ha hw)
  · exact step_of_fetchLines hh (fetchLines_of_x2 hr hst ha hw)
  · exact step_of_fetchLines hh (fetchLines_of_x3 hr hst ha)
  · exact step_of_fetchLines hh ((fetchLines_of_done hr hst).trans (if_pos hready))
  · exact step_of_fetchLines hh ((fetchLines_of_done hr hst).trans (if_neg (by simp [hready])))

/-! ### Quiescence (R97, R103) -/

theorem atomicStep_quiescentIdle {s : State} {l : HostLines} (hst : s.st = .idle) (hr : l.rst = false)
    (hv : l.reqValid = false) : atomicStep l s = .fault .quiescentIdle := by
  simp [atomicStep, fetchLines_of_idle hr hst, hv, runFetched]

theorem atomicStep_quiescentDone {s : State} {l : HostLines} (hst : s.st = .done) (hr : l.rst = false)
    (hready : l.rspReady = false) : atomicStep l s = .fault .quiescentDone := by
  simp [atomicStep, fetchLines_of_done hr hst, hready, runFetched]

/-- Settles O39: on its row, or past the end of the rows, the block's step is the quiescent one. -/
theorem quiescentStatesMakeNoStep : Obligations.QuiescentStatesMakeNoStep := by
  unfold Obligations.QuiescentStatesMakeNoStep
  intro s valid ready ch rest
  rw [step_lines, step_lines, step_nil]
  exact ⟨fun hst => ⟨atomicStep_quiescentIdle hst rfl rfl, atomicStep_quiescentIdle hst rfl rfl⟩,
    fun hst => ⟨atomicStep_quiescentDone hst rfl rfl, atomicStep_quiescentDone hst rfl rfl⟩⟩

/-! ### Enabled steps (R95) -/

/-- In an open frame the block's step has a next state on any lines: reset, or the pending exchange. -/
theorem Inv.exists_atomicStep {s : State} (hs : Inv s) (hop : frameOpen s.st) (l : HostLines) (r : List HostRow) :
    ∃ t, atomicStep l { s with host := r } = .next t := by
  cases hr : l.rst with
  | true => exact ⟨_, congrArg (runFetched · _) (if_pos hr)⟩
  | false =>
    obtain ⟨t, hm⟩ := hs.exists_exchange hop
    exact ⟨_, (hm.host r).atomicStep_eq hr⟩

/-- Settles O38: an open frame goes on with its exchange (`Inv.exists_atomicStep`); in IDLE and in DONE, with neither
reset nor the line that is waited for, the block is quiescent. -/
theorem anOpenFrameAlwaysHasAStep : Obligations.AnOpenFrameAlwaysHasAStep := by
  unfold Obligations.AnOpenFrameAlwaysHasAStep
  intro s l rest hs
  rw [step_lines, step_nil]
  refine ⟨fun hop => hs.exists_atomicStep hop l rest, fun hop => hs.exists_atomicStep hop idleLines [],
    fun t hst h => ?_, fun t hst h => ?_⟩
  · by_contra hno
    obtain ⟨hr, hv⟩ : l.rst = false ∧ l.reqValid = false := by simpa using hno
    have hquiet := atomicStep_quiescentIdle (s := { s with host := rest }) hst hr hv
    exact nomatch h.symm.trans hquiet
  · by_contra hno
    obtain ⟨hr, hready⟩ : l.rst = false ∧ l.rspReady = false := by simpa using hno
    have hquiet := atomicStep_quiescentDone (s := { s with host := rest }) hst hr hready
    exact nomatch h.symm.trans hquiet

/-! ### The request while the block is busy (R98) -/

/-- Outside IDLE the selection reads `rst` and `rsp_ready` alone of the host's lines. -/
theorem fetchLines_of_ne_idle {s : State} {l m : HostLines} (hst : s.st ≠ .idle) (hr : l.rst = m.rst)
    (hready : l.rspReady = m.rspReady) : fetchLines l s = fetchLines m s := by
  unfold fetchLines
  rw [hr, hready]
  cases hp : s.st with
  | idle => exact absurd hp hst
  | x1 | x2 | x3 | done => rfl

/-- Settles O40: the two rows differ only in lines that are not read outside IDLE. -/
theorem busyBlockDoesNotReadTheRequest : Obligations.BusyBlockDoesNotReadTheRequest := by
  unfold Obligations.BusyBlockDoesNotReadTheRequest
  intro s l valid ch rest hst
  rw [step_lines, step_lines]
  exact congrArg (runFetched · _) (fetchLines_of_ne_idle hst rfl rfl)

end Sys2Proof.Machine
end

section
/-! PROOFS. The statements of spec/41_transaction.md on TRANSACT (R90, R95, R99, R101): the four courses of a frame, and
the frame as the sequence of its steps. -/

namespace Sys2Proof.Machine

/-! ### The answers along a frame -/

/-- The transport answers both states alike, at this exchange and at every later one (log 1). -/
structure SameAnswers (s u : State) : Prop where
  cfg : u.cfg = s.cfg
  replies : u.replies = s.replies
  draws : u.draws = s.draws

theorem SameAnswers.answer {s u : State} (h : SameAnswers s u) : u.answer = s.answer :=
  answer_congr h.cfg h.replies h.draws

/-- After an exchange in each they still do. -/
theorem SameAnswers.takeReply {s u : State} (h : SameAnswers s u) : SameAnswers s.takeReply u.takeReply := by
  obtain ⟨hreplies, hdraws⟩ := takeReply_congr h.replies h.draws
  exact ⟨by simpa using h.cfg, hreplies, hdraws⟩

/-- An exchange in `u`, with its answer and the answers left read in `s`. -/
theorem SameAnswers.exchange_eq {s u : State} (h : SameAnswers s u) (b : Byte) :
    u.exchange b = { u with
      replies := s.takeReply.replies, draws := s.takeReply.draws, wire := u.wire ++ [.xchg b s.answer] } := by
  obtain ⟨-, hreplies, hdraws⟩ := h.takeReply
  rw [← hreplies, ← hdraws, ← h.answer]
  ext1 <;> simp

theorem sameAnswers_openFrame (c : Channel) (s : State) : SameAnswers s (s.openFrame c) := ⟨rfl, rfl, rfl⟩

/-! ### The positions of a frame -/

/-- The frame on channel `c`, opened in `s`, where exchange 1 has been answered `r1` (R92). -/
def State.sentHigh (c : Channel) (r1 : Byte) (s : State) : State :=
  { s.takeReply with
    st := .x2, cmd := some (commandWord s.cfg c), hi := none, lo := none, sample := none, status := none, csN := 0#1,
    wire := s.wire ++ [.cs 0#1, .xchg (cmdHigh (commandWord s.cfg c)) (.byte r1)] }

/-- And where exchange 2 has been answered `r2` (R93). -/
def State.sentLow (c : Channel) (r1 r2 : Byte) (s : State) : State :=
  { s.takeReply.takeReply with
    st := .x3, cmd := some (commandWord s.cfg c), hi := some (lowNibble r2), lo := none, sample := none, status := none,
    csN := 0#1,
    wire := s.wire ++ [.cs 0#1, .xchg (cmdHigh (commandWord s.cfg c)) (.byte r1),
      .xchg (cmdLow (commandWord s.cfg c)) (.byte r2)] }

theorem sameAnswers_sentHigh (c : Channel) (r1 : Byte) (s : State) : SameAnswers s.takeReply (s.sentHigh c r1) :=
  ⟨rfl, rfl, rfl⟩

theorem sameAnswers_sentLow (c : Channel) (r1 r2 : Byte) (s : State) :
    SameAnswers s.takeReply.takeReply (s.sentLow c r1 r2) :=
  ⟨rfl, rfl, rfl⟩

theorem move_sentHigh {s : State} {r1 : Byte} (c : Channel) (h1 : s.answer = .byte r1) :
    Move (s.openFrame c) .exchange (s.sentHigh c r1) := by
  have hsame := sameAnswers_openFrame c s
  have hm := Move.sentHigh (s := s.openFrame c) _ r1 rfl rfl (hsame.answer.trans h1)
  rw [hsame.exchange_eq, h1] at hm
  simpa [State.sentHigh] using hm

theorem move_sentLow {s : State} {r2 : Byte} (c : Channel) (r1 : Byte) (h2 : s.takeReply.answer = .byte r2) :
    Move (s.sentHigh c r1) .exchange (s.sentLow c r1 r2) := by
  have hsame := sameAnswers_sentHigh c r1 s
  have hm := Move.sentLow (s := s.sentHigh c r1) _ r2 rfl rfl (hsame.answer.trans h2)
  rw [hsame.exchange_eq, h2] at hm
  simpa [State.sentHigh, State.sentLow] using hm

/-! ### The four courses (R90, R99, 60_exceptions R121) -/

/-- In DONE the frame is finished by handing over its response. -/
theorem finishFrame_of_responseOf {s : State} {r : Response} (hst : s.st = .done) (h : responseOf s = .ok r) :
    finishFrame s = .next { s with st := .idle, received := s.received ++ [r] } :=
  (finishFrame_of_done hst).trans (execAck_of_responseOf hst h)

/-- A failed exchange finishes the frame, and the host takes the fault. -/
theorem finishFrame_of_fault {s u : State} {b : Byte} (hsame : SameAnswers s u) (hb : xOut u = some b)
    (ha : s.answer = .fault) :
    finishFrame u = .next { u with
      st := .idle, sample := none, status := some .transportFault, csN := 1#1, faultSeen := true,
      replies := s.takeReply.replies, draws := s.takeReply.draws, wire := u.wire ++ [.xchg b .fault, .cs 1#1],
      received := u.received ++ [⟨.transportFault, none⟩] } := by
  rw [finishFrame_of_move (.faulted b hb (hsame.answer.trans ha)), finishFrame_of_responseOf rfl rfl,
    hsame.exchange_eq, ha]
  simp [State.raiseTransportFault, State.driveCs, State.statusFault]

/-- In X3 a byte finishes it, and the host takes the sample. -/
theorem finishFrame_of_closed {s u : State} {n : Nibble} {r3 : Byte} (hsame : SameAnswers s u) (hst : u.st = .x3)
    (hn : u.hi = some n) (ha : s.answer = .byte r3) :
    finishFrame u = .next { u with
      st := .idle, lo := some r3, sample := some (sampleOf n r3), status := some .ok, csN := 1#1,
      replies := s.takeReply.replies, draws := s.takeReply.draws,
      wire := u.wire ++ [.xchg filler (.byte r3), .cs 1#1],
      received := u.received ++ [⟨.ok, some (sampleOf n r3)⟩] } := by
  rw [finishFrame_of_move (.closed n r3 hst hn (hsame.answer.trans ha)), finishFrame_of_responseOf rfl rfl,
    hsame.exchange_eq, ha]
  simp [State.closeFrame, State.driveCs, State.statusOk]

/-- Settles O43: each course goes through the positions of the frame to the exchange that ends it. -/
theorem transactRunsOneFrame : Obligations.TransactRunsOneFrame := by
  unfold Obligations.TransactRunsOneFrame
  intro s ch w hst hch hw
  rw [← commandWord_ofNat s.cfg hch] at hw
  subst hw
  rw [execTransact_eq hst hch]
  generalize BitVec.ofNat 3 ch = c
  refine ⟨fun r1 r2 r3 h1 h2 h3 => ?_, fun h1 => ?_, fun r1 h1 h2 => ?_, fun r1 r2 h1 h2 h3 => ?_⟩
  · rw [finishFrame_of_move (move_sentHigh c h1), finishFrame_of_move (move_sentLow c r1 h2),
      finishFrame_of_closed (sameAnswers_sentLow c r1 r2 s) rfl rfl h3]
    simp [State.sentLow, cmdHigh, cmdLow, filler, lowNibble, sampleOf]
  · rw [finishFrame_of_fault (sameAnswers_openFrame c s) rfl h1]
    simp [State.openFrame, State.driveCs, State.clearStatus, cmdHigh]
  · rw [finishFrame_of_move (move_sentHigh c h1), finishFrame_of_fault (sameAnswers_sentHigh c r1 s) rfl h2]
    simp [State.sentHigh, cmdHigh, cmdLow]
  · rw [finishFrame_of_move (move_sentHigh c h1), finishFrame_of_move (move_sentLow c r1 h2),
      finishFrame_of_fault (sameAnswers_sentLow c r1 r2 s) rfl h3]
    simp [State.sentLow, cmdHigh, cmdLow, filler, lowNibble]

/-! ### TRANSACT completes (R95) -/

/-- TRANSACT leaves a state that meets the invariants of 10_state R34, whatever it began from. -/
theorem inv_of_execTransact {ch : Nat} {s t : State} (h : execTransact ch s = .next t) : Inv t := by
  obtain ⟨u, hu, hm⟩ := execTransact_keeps (P := Inv) (fun c => inv_openFrame c s) (fun _ _ hu _ hm => hu.move hm) h
  exact hu.move hm

/-- Settles O44: TRANSACT runs to its response as the READONE program does, and in IDLE the invariants give chip-select
1. -/
theorem transactAlwaysCompletes : Obligations.TransactAlwaysCompletes := by
  unfold Obligations.TransactAlwaysCompletes
  intro s ch hst hch
  obtain ⟨t, r, -, ht, hidle, hrec, -⟩ := runHost_readOneProgram hst hch
  have hhigh : t.csN ≠ 0#1 := fun hlow => ((inv_of_execTransact ht).csLow.mp hlow).ne_idle hidle
  exact ⟨t, r, ht, hidle, (BitVec.eq_zero_or_eq_one t.csN).resolve_left hhigh, hrec⟩

/-! ### The sequence of its steps (R90, R102; log 6) -/

/-- The rows of READONE after its request: an idle row for each exchange left, and the acknowledge. -/
theorem runSteps_idleRows {s : State} {rest : List HostRow} (hc : Course s) :
    runSteps (exchangesLeft s + 1)
        { s with host := List.replicate (exchangesLeft s) idleRow ++ .lines ackLines :: rest } =
      finishFrame { s with host := rest } := by
  induction hc with
  | @done s _ hst =>
    have hleft : exchangesLeft s = 0 := by simp [exchangesLeft, hst]
    rw [hleft]
    calc runSteps 1 { s with host := .lines ackLines :: rest }
      _ = atomicStep ackLines { s with host := rest } := andThen_next_right _
      _ = exec .ack { s with host := rest } := atomicStep_ackLines (s := { s with host := rest }) hst
      _ = finishFrame { s with host := rest } := (finishFrame_of_done (s := { s with host := rest }) hst).symm
  | @exchange s t hm _ ih =>
    rw [hm.exchangesLeft_eq]
    have hstep : step { s with host := List.replicate (exchangesLeft t + 1) idleRow ++ .lines ackLines :: rest } =
        .next { t with host := List.replicate (exchangesLeft t) idleRow ++ .lines ackLines :: rest } :=
      (hm.host _).atomicStep_eq (l := idleLines) rfl
    calc runSteps (exchangesLeft t + 1 + 1) _
      _ = runSteps (exchangesLeft t + 1) _ := by rw [runSteps, hstep]; rfl
      _ = finishFrame { t with host := rest } := ih
      _ = finishFrame { s with host := rest } := (finishFrame_of_move (hm.host rest)).symm

/-- In IDLE a request row opens the frame, with the rows after it left. -/
theorem step_request {s : State} {ch : Nat} (hst : s.st = .idle) (hch : ch < 8) (rows : List HostRow) :
    step { s with host := .lines (reqLines ch) :: rows } =
      .next { s.openFrame (BitVec.ofNat 3 ch) with host := rows } :=
  (atomicStep_reqLines (s := { s with host := rows }) hst ch).trans (exec_accept_of_lt hst hch)

/-- Settles O45: the request opens the frame (`step_request`), and the rows left finish it (`runSteps_idleRows`) as the
lines of TRANSACT do. -/
theorem transactIsTheSequenceOfItsSteps : Obligations.TransactIsTheSequenceOfItsSteps := by
  unfold Obligations.TransactIsTheSequenceOfItsSteps
  intro s ch n rest hst hch hn
  obtain rfl := hn.trans (exchangesLeft_openFrame (BitVec.ofNat 3 ch) s).symm
  rw [execTransact_eq (s := { s with host := rest }) hst hch, readOneRows, List.cons_append, List.append_assoc,
    runSteps, step_request hst hch]
  exact runSteps_idleRows ((inv_openFrame _ s).course nofun)

/-! ### The channel (R101) -/

/-- Settles O46: in each of the four courses what the host receives, `SAMPLE` and `STATUS` are written without the
channel. -/
theorem resultDoesNotDependOnTheChannel : Obligations.ResultDoesNotDependOnTheChannel := by
  unfold Obligations.ResultDoesNotDependOnTheChannel
  intro s a b hst ha hb
  obtain ⟨agood, afirst, asecond, athird⟩ := transactRunsOneFrame s a _ hst ha rfl
  obtain ⟨bgood, bfirst, bsecond, bthird⟩ := transactRunsOneFrame s b _ hst hb rfl
  cases h1 : s.answer with
  | fault => exact ⟨_, _, afirst h1, bfirst h1, rfl, rfl, rfl⟩
  | byte r1 =>
    cases h2 : s.takeReply.answer with
    | fault => exact ⟨_, _, asecond r1 h1 h2, bsecond r1 h1 h2, rfl, rfl, rfl⟩
    | byte r2 =>
      cases h3 : s.takeReply.takeReply.answer with
      | fault => exact ⟨_, _, athird r1 r2 h1 h2 h3, bthird r1 r2 h1 h2 h3, rfl, rfl, rfl⟩
      | byte r3 => exact ⟨_, _, agood r1 r2 r3 h1 h2 h3, bgood r1 r2 r3 h1 h2 h3, rfl, rfl, rfl⟩

end Sys2Proof.Machine
end

section
/-! PROOFS. The statements of spec/60_exceptions.md: the fault entry (R121, R122), the refused channels (R124), the
transport that cannot fail (R125) and the order of causes (R126). -/

namespace Sys2Proof.Machine

/-! ### Channel admission (R124) -/

section
variable {s : State} {ch : Nat} (hch : 8 ≤ ch)
include hch

theorem exec_accept_of_ge (hst : s.st = .idle) : exec (.accept ch) s = .refused (.invalidChannel ch) := by
  simp [exec, execAccept, hst, channelOf_eq_none.mpr hch]

theorem exec_transact_of_ge (hst : s.st = .idle) : exec (.transact ch) s = .refused (.invalidChannel ch) := by
  simp [exec, execTransact, hst, channelOf_eq_none.mpr hch]

theorem exec_encode_of_ge (s : State) : exec (.encode ch) s = .refused (.invalidChannel ch) := by
  simp [exec, execEncode, channelOf_eq_none.mpr hch]

end

/-- In IDLE a request is given to ACCEPT, whatever `rsp_ready` is (41_transaction R102). -/
theorem atomicStep_of_request {s : State} {l : HostLines} (hst : s.st = .idle) (hr : l.rst = false)
    (hv : l.reqValid = true) : atomicStep l s = exec (.accept l.reqCh) s := by
  simp [atomicStep, fetchLines_of_idle hr hst, hv, runFetched]

/-- Settles O8: the request on the lines is ACCEPT's (`atomicStep_of_request`), and each operation asks `channelOf`. -/
theorem channelsOutsideTheRangeAreRefused : Obligations.ChannelsOutsideTheRangeAreRefused := by
  unfold Obligations.ChannelsOutsideTheRangeAreRefused
  intro s ch rest ready hst
  have hstep : step { s with host := .lines ⟨false, true, ch, ready⟩ :: rest } =
      exec (.accept ch) { s with host := rest } := atomicStep_of_request (s := { s with host := rest }) hst rfl rfl
  rw [hstep]
  refine ⟨fun hch => ?_, fun hch => ⟨_, exec_accept_of_lt hst hch, rfl⟩⟩
  exact ⟨exec_accept_of_ge hch hst, exec_transact_of_ge hch hst, exec_encode_of_ge hch s, exec_accept_of_ge hch hst⟩

/-! ### The fault entry (R121, R122) -/

/-- Settles O18, by the one state the fault entry goes to. -/
theorem faultEntryEndsTheFrame : Obligations.FaultEntryEndsTheFrame := by
  unfold Obligations.FaultEntryEndsTheFrame
  intro s b hb ha
  exact ⟨_, execFaultEntry_of_fault hb ha, block_raiseTransportFault_exchange s b⟩

/-- Settles O19: answered `fault`, each exchange sends the byte offered in its position, as the fault entry does. -/
theorem eachExchangeFaultsAsTheFaultEntry : Obligations.EachExchangeFaultsAsTheFaultEntry := by
  unfold Obligations.EachExchangeFaultsAsTheFaultEntry
  intro s ha
  refine ⟨fun w hst hw => ?_, fun w hst hw => ?_, fun hst => ?_⟩
  · have hb : xOut s = some (cmdHigh w) := by rw [xOut_of_x1 hst, hw, Option.map_some]
    calc exec (.xchg1 (tx1Free w)) s
      _ = exchange1 s := exec_xchg1_of_cmd hst hw
      _ = .next (s.exchange (cmdHigh w)).raiseTransportFault := exchange1_of_fault hw ha
      _ = exec .faultEntry s := (execFaultEntry_of_fault hb ha).symm
  · have hb : xOut s = some (cmdLow w) := by rw [xOut_of_x2 hst, hw, Option.map_some]
    calc exec (.xchg2 (tx2Free w)) s
      _ = exchange2 s := exec_xchg2_of_cmd hst hw
      _ = .next (s.exchange (cmdLow w)).raiseTransportFault := exchange2_of_fault hw ha
      _ = exec .faultEntry s := (execFaultEntry_of_fault hb ha).symm
  · calc exec .xchg3 s
      _ = exchange3 s := exec_xchg3_of_x3 hst
      _ = .next (s.exchange filler).raiseTransportFault := exchange3_of_fault ha
      _ = exec .faultEntry s := (execFaultEntry_of_fault (xOut_of_x3 hst) ha).symm

/-- Settles O20: the fault entry writes none of `CMD`, `HI` and `LO`, and the invariants say what the open frame held
there. -/
theorem faultLeavesEarlierCapturesOnly : Obligations.FaultLeavesEarlierCapturesOnly := by
  unfold Obligations.FaultLeavesEarlierCapturesOnly
  intro s t b hinv hframe hb ha h
  obtain rfl : (s.exchange b).raiseTransportFault = t :=
    Host.Outcome.next.inj ((execFaultEntry_of_fault hb ha).symm.trans h)
  obtain ⟨hlo, -, -⟩ := hframe.openFrame (frameOpen_of_xOut hb)
  refine ⟨by simp, by simpa using hlo, fun hst => ?_, fun hst => ⟨?_, hinv.hiHeld hst⟩, by simp [ha], rfl, rfl⟩
  · simpa using hframe.beforeNibble hst
  · simp

/-! ### A transport that cannot fail (R125) -/

theorem answer_ne_fault_of_cannot_fail {s : State} (hc : s.cfg.transportCanFail = false) : s.answer ≠ .fault := by
  simp [answer_of_cannot_fail hc]

/-- Of the moves only the fault entry writes TRANSPORT_FAULT or sets the sticky bit, and a transport that cannot fail
gives it no occasion. -/
theorem Move.noFault {s t : State} {k : StepKind} (hm : Move s k t) (hc : s.cfg.transportCanFail = false)
    (hs : NoFault s) : NoFault t := by
  obtain ⟨hseen, hstatus⟩ := hs
  cases hm with
  | faulted b hout hans => exact absurd hans (answer_ne_fault_of_cannot_fail hc)
  | opened c hst => exact ⟨hseen, nofun⟩
  | sentHigh w r1 hst hcmd hans => exact ⟨by simpa using hseen, by simpa using hstatus⟩
  | sentLow w r2 hst hcmd hans => exact ⟨by simpa using hseen, by simpa using hstatus⟩
  | closed n r3 hst hhi hans => exact ⟨by simpa using hseen, nofun⟩
  | returned r hst hresp => exact ⟨hseen, hstatus⟩
  | reset => exact ⟨rfl, nofun⟩

/-- In DONE there is a status (10_state R34 item 4), and where no fault has been seen it is OK. -/
theorem NoFault.status_of_done {s : State} (hs : NoFault s) (hinv : Inv s) (hst : s.st = .done) :
    s.status = some .ok := by
  obtain ⟨v, hv⟩ := Option.ne_none_iff_exists'.mp (hinv.statusHeld hst)
  cases v with
  | ok => exact hv
  | transportFault => exact absurd hv hs.2

/-- Settles O30: a step is a move and keeps `NoFault` (`Move.noFault`) and the parameters, so the answers before and
after it are bytes. -/
theorem aNonFailingBlockSeesNoFault : Obligations.ANonFailingBlockSeesNoFault := by
  unfold Obligations.ANonFailingBlockSeesNoFault
  intro s t hc hs h
  obtain ⟨k, r, c, hm⟩ := step_move h
  have ht : NoFault t := hm.noFault hc hs
  have hct : t.cfg.transportCanFail = false := hm.cfg_eq ▸ hc
  refine ⟨ht, answer_ne_fault_of_cannot_fail hc, answer_ne_fault_of_cannot_fail hct, fun hinv => ?_, fun u hu => ?_⟩
  · exact ht.status_of_done (everyStepKeepsTheStateInvariants s t hinv h)
  · obtain ⟨b, -, ha, -⟩ := execFaultEntry_next hu
    exact answer_ne_fault_of_cannot_fail hc ha

/-! ### The order of causes (R126) -/

/-- With `rst` the block's step is RESET, whatever else the lines are and wherever the block stands
(70_reset_and_hazards R142). -/
theorem atomicStep_of_rst {l : HostLines} (hr : l.rst = true) (s : State) : atomicStep l s = exec .reset s := by
  simp [atomicStep, fetchLines, hr, runFetched]

/-- Settles O22: on its row the step is the block's own (`step_lines`), and `rst` makes that RESET. -/
theorem resetBeatsEveryOtherStep : Obligations.ResetBeatsEveryOtherStep := by
  unfold Obligations.ResetBeatsEveryOtherStep
  intro s rest valid ready ch
  rw [step_lines]
  exact atomicStep_of_rst rfl _

end Sys2Proof.Machine
end

section
/-! PROOFS. The statements of spec/70_reset_and_hazards.md on reset and the machine a run starts from (R140, R143). -/

namespace Sys2Proof.Machine

/-! ### RESET (R140) -/

theorem exec_reset (s : State) : exec .reset s = .next s.resetBlock := rfl

/-- Reset leaves no trace of the registers it found: they are those of a block just built with the same parameters. -/
@[simp] theorem State.resetBlock_block (s : State) : s.resetBlock.block = (State.resetWith s.cfg).block := rfl

/-- With `rst` on the lines of its row a step is RESET in the state that row leaves. -/
theorem step_of_rst {l : HostLines} (hr : l.rst = true) (rest : List HostRow) (s : State) :
    step { s with host := .lines l :: rest } = .next { s with host := rest }.resetBlock := by
  rw [step_lines, atomicStep_of_rst hr, exec_reset]

/-- Reset only raises chip-select, so every exchange on the wire after it was there before. -/
theorem xchg_mem_wire_of_mem_resetBlock {s : State} {b : Byte} {a : Answer}
    (h : WireEvent.xchg b a ∈ s.resetBlock.wire) : WireEvent.xchg b a ∈ s.wire := by
  simpa using h

/-- The block's outputs in IDLE (R30): it is ready and answers nothing. -/
structure IdleOutputs (s : State) : Prop where
  ready : reqReady s = true
  notValid : rspValid s = false
  noByte : xOut s = none
  noStatus : rspStatus s = none
  noSample : rspSample s = none

theorem idleOutputs_of_idle {s : State} (h : s.st = .idle) : IdleOutputs s where
  ready := by simp [reqReady, h]
  notValid := by simp [rspValid, h]
  noByte := by simp [xOut, h]
  noStatus := by simp [rspStatus, h]
  noSample := by simp [rspSample, h]

/-- Settles O21: the next state is `resetBlock`, in IDLE with the registers of ResetState (`resetBlock_block`); a step
with `rst` is that reset, and the rows left to drive are no register. -/
theorem resetRestoresResetState : Obligations.ResetRestoresResetState := by
  unfold Obligations.ResetRestoresResetState
  intro s
  have hout : IdleOutputs s.resetBlock := idleOutputs_of_idle s.resetBlock_st
  refine ⟨s.resetBlock, exec_reset s, s.resetBlock_block, fun _ _ => xchg_mem_wire_of_mem_resetBlock,
    hout.ready, hout.notValid, s.resetBlock_csN, hout.noByte, hout.noStatus, hout.noSample,
    fun valid ready ch rest => ?_⟩
  exact ⟨_, step_of_rst rfl rest s, by simp⟩

/-! ### The machine a run starts from (R143) -/

/-- Whether or not the transport can fail, the block of the spec has the prefix of R5. -/
theorem cmdPrefix_standard (canFail : Bool) : (Config.standard canFail).cmdPrefix = 0x0400#16 := by
  simp [Config.cmdPrefix, Config.standard, Config.standardTop]

/-- Settles O23: `resetWith` gives each register its reset value, and `State.reset` is it with the spec's prefix
(`cmdPrefix_standard`), the free parameter left open. -/
theorem runsStartAtResetState : Obligations.RunsStartAtResetState := by
  unfold Obligations.RunsStartAtResetState
  refine ⟨fun c => ?_, rfl, cmdPrefix_standard _⟩
  exact ⟨rfl, rfl, rfl, rfl, rfl, rfl, rfl, rfl, rfl⟩

end Sys2Proof.Machine
end
